-- ==== Sys2Proof/Word.lean ====
section
/-! DEFINITION. The word types of the Imdaro E416: bytes and fields of the line and of the host port, the
wrapping round, sequence and session numbers, and common time as the manual presents it (a round and an
offset; 00_scope "Time", "Sequence numbers"). No function stands here: the arithmetic of these types is in
Sys2Proof/Machine/Clock.lean and Sys2Proof/Machine/Operands.lean. -/

namespace Sys2Proof

/-- One byte of the station line or of the host port. -/
abbrev Byte := BitVec 8

/-- A 16-bit field: a signature, a tag, a view, a value. -/
abbrev Word16 := BitVec 16

/-- The round part of common time, 0 to 2^40 - 1, wrapping to 0 (00_scope "Time", R42). -/
abbrev Round := BitVec 40

/-- A sequence number, 0 to 32767, wrapping to 0 (00_scope "Sequence numbers"). -/
abbrev Sequence := BitVec 15

/-- A session, 0 to 65535 (R16, R28). -/
abbrev Session := BitVec 16

/-- A station number, 0 to 15 (R176). -/
abbrev StationNo := Fin 16

/-- The number of an event input, IN0 to IN7 (R75). -/
abbrev InputNo := Fin 8

/-- A common time: a round and an offset in µs within the round (00_scope "Time", R41). -/
structure CommonTime where
  round : Round
  offset : Nat
deriving DecidableEq, Repr, Inhabited

end Sys2Proof
end

