-- ==== Sys2Proof/Syntax.lean ====
section
/-! DEFINITION. The commands and events the E416 takes: one constructor of `Instr` for each row of
spec/opcode_table.json, in the table's order, with the values that come from outside the part as operands.

Two rows carry, beside such values, the order in which the blocks of the part take the one event: R18 and R13
leave that order open ("The order in which different blocks take the same boundary is not fixed"; "The
hand-over to one block is not ordered against the hand-over to another"), so the sender of the command
names it and every claim for all commands is a claim for all orders. -/

namespace Sys2Proof

/-- What is taken at a slot boundary, each as an event of its own (R18): the boundary by each of five
blocks, and by the Station Controller the two reports that a round end may bring (R48, R68). -/
inductive BoundaryAct where
  /-- The Station Controller takes the boundary (R19, R25, R27, R35, R36). -/
  | controller
  /-- The Time Unit takes the round end (R47). -/
  | timeUnit
  /-- The Membership Table takes the round end (R63). -/
  | membership
  /-- The Outbound Queue takes the round end (R102, R103). -/
  | outbound
  /-- The Journal takes the boundary (R129). -/
  | journal
  /-- The Station Controller takes the Time Unit's report of the correction (R31, R48). -/
  | correctionReport
  /-- The Station Controller takes the Membership Table's report of a view-check failure (R32, R68). -/
  | viewReport
deriving DecidableEq, Repr

/-- The five blocks a valid frame is handed to (R13). -/
inductive FrameAct where
  | controller
  | timeUnit
  | membership
  | outbound
  | receipt
deriving DecidableEq, Repr

/-- One command or event of the E416. -/
inductive Instr where
  /-- POWER_ON_RESET (R16): power comes on. -/
  | powerOnReset
  /-- PIN_RESET (R16): RESETn is driven low. -/
  | pinReset
  /-- RESET_END (R176): the reset ends with these levels on ID0 to ID3, ID0 the least significant bit. -/
  | resetEnd (straps : BitVec 4)
  /-- SELN_ASSERTED (R147): SELn falls. -/
  | selnAsserted
  /-- SELN_RELEASED (R148): SELn rises. -/
  | selnReleased
  /-- PORT_TIMER_EXPIRY (R149): the port timer reaches 250 ms. -/
  | portTimerExpiry
  /-- GET_STATUS (R151), code 0x01. -/
  | getStatus
  /-- READ_TIME (R153), code 0x02. -/
  | readTime
  /-- READ_ATTENTION (R164), code 0x03. -/
  | readAttention
  /-- READ_PEER (R154), code 0x04, with its argument byte. -/
  | readPeer (number : Byte)
  /-- READ_COUNTS (R155), code 0x05. -/
  | readCounts
  /-- READ_RECORD (R139), code 0x10. -/
  | readRecord
  /-- PEEK_RECORD (R141), code 0x11. -/
  | peekRecord
  /-- INJECT (R87), code 0x20, with its tag. -/
  | inject (tag : Word16)
  /-- SET_MASK (R165), code 0x30, with its two argument bytes. -/
  | setMask (causes : Word16)
  /-- CLEAR_COUNTS (R157), code 0x31. -/
  | clearCounts
  /-- WRITE_PROFILE (R161), code 0x40, with the eight argument bytes by field (R169): S, L, W, CL, X, G. -/
  | writeProfile (slotCount : Byte) (slotLength : Word16) (window limit exclusion : Byte) (guard : Word16)
  /-- WRITE_INPUT (R162), code 0x41, with its four argument bytes (R169): input, edge and invert, D, C. -/
  | writeInput (number settings debounce chatter : Byte)
  /-- START (R158), code 0x50. -/
  | start
  /-- LEAVE (R34), code 0x51. -/
  | leave
  /-- REJOIN (R38), code 0x52. -/
  | rejoin
  /-- UNKNOWN_COMMAND_CODE (R150): a command byte that names no command of R169. -/
  | unknownCommandCode (code : Byte)
  /-- FRAME_TAKEN (R9): the burst under way ends; the bytes that followed its SOF mark, and the order in which
  the blocks take the frame if it is valid (R13). -/
  | frameTaken (bytes : List Byte) (order : List FrameAct)
  /-- PREAMBLE_START (R7): common time reaches the preamble start of the own slot; if a burst is under way, the
  bytes of it received so far, which are taken as a frame at this instant (R9), and the order of R13. -/
  | preambleStart (received : List Byte) (order : List FrameAct)
  /-- SOF_MARK_SENT (R4): the last preamble bit of the own frame ends. -/
  | sofMarkSent
  /-- FRAME_SENT (R7): the last CRC bit of the own frame ends. -/
  | frameSent
  /-- ECHO_RESULT (R8): the bytes the receiver heard in place of the own frame, first preamble byte to last,
  and whether the line fell idle within 4 µs of the last CRC bit. -/
  | echoResult (heard : List Byte) (fellIdle : Bool)
  /-- SLOT_BOUNDARY (R18): common time reaches the next slot start; the order in which the boundary is taken. -/
  | slotBoundary (order : List BoundaryAct)
  /-- LISTEN_TIMER_EXPIRY (R23): the listen timer runs out. -/
  | listenTimerExpiry
  /-- SAMPLE_EVENT (R76): the levels read at IN0 to IN7, bit k for INk, a set bit for high. -/
  | sampleEvent (levels : BitVec 8)
  /-- WINDOW_END (R85): the sample event that brings the window counter to 10,000, with the levels read. -/
  | windowEnd (levels : BitVec 8)
  /-- HOLD_END (R50): the hold count reaches 0. -/
  | holdEnd
  /-- SCK_RISING_EDGE (R147): SCK rises with this level on SDI. -/
  | sckRisingEdge (sdi : Bool)
  /-- BURST_BEGINS (R9): line activity begins after at least 4 µs of idle line. -/
  | burstBegins
  /-- SOF_MARK_RECEIVED (R9): the first sixteen bits of the burst under way are complete; their value, the
  first bit on the line the most significant. -/
  | sofMarkReceived (pattern : Word16)
deriving DecidableEq, Repr

end Sys2Proof
end

