-- ==== Sys2Proof/Decode.lean ====
section
/-! DEFINITION. The E416 has no instruction words: its commands are events of its pins, its line and its clock,
and no row of spec/opcode_table.json gives bits. (The command codes that the host clocks in, R169, are read by
Sys2Proof/Machine/HostPort.lean.) -/

namespace Sys2Proof

/-- The command that a word spells by the table's bits: none, because no row of the table has bits. -/
def decodeTableWord (_nbits _w : Nat) : Option Instr := none

end Sys2Proof
end

