-- ==== Sys2Proof/Config.lean ====
section
/-! DEFINITION. The free values of the model: what the manual does not fix, or what comes from outside the part
when the part's own clock raises an event. Each is an opaque constant: nothing can be proved of its
value, so a claim holds for every value. -/

namespace Sys2Proof

/-- FREE VALUE (log 4). The common time 1 µs before (0, 0), which R91 and R99 may ask for and no rule states; a
fresh value for each value of the local counter. Its offset is taken modulo the round length (R167). -/
opaque Config.timeBeforeOrigin : Nat → CommonTime

/-- FREE VALUE (log 3). Which of several events that are due in one microsecond the part takes first (R23, R25,
R149 and others leave it open); by the local counter and the number of events due. -/
opaque Config.dueChoice : Nat → Nat → Nat

/-- FREE VALUE (log 2). The order in which the acts of a slot boundary are taken when the part's own clock
raises it (R18: "is not fixed"); by the local counter. -/
opaque Config.boundaryOrder : Nat → List BoundaryAct

/-- FREE VALUE (log 2). The order in which the blocks take a frame that the part's own PREAMBLE_START cuts off
(R9, R13); by the local counter. -/
opaque Config.handoverOrder : Nat → List FrameAct

/-- FREE VALUE (log 5). The levels on IN0 to IN7 at a sample event that the part's own clock raises; by the
local counter. -/
opaque Config.inputLevels : Nat → BitVec 8

/-- FREE VALUE (log 5). The bytes of a burst under way that had been received when the part's own clock raised
PREAMBLE_START (R9); by the local counter. -/
opaque Config.burstBytes : Nat → List Byte

end Sys2Proof
end

