-- ==== Sys2Proof/Machine/State.lean ====
section
/-! DEFINITION. Everything the manual gives the E416 to hold, block by block, as plain data; the machine right
after a reset; the outcomes a step may end in. Each field cites the rule that names it. A field marked MODEL
is the model's own bookkeeping (INVENTORY.md, '## State'). -/

namespace Sys2Proof.Machine

/-! ## Names -/

/-- Station states (R16). -/
inductive StationState where
  | config
  | listen
  | coldstart
  | integrate
  | active
  | departed
  | faulted
deriving DecidableEq, Repr

/-- Time qualities (R39, R52); `noTime` is the manual's NONE. -/
inductive Quality where
  | sound
  | sole
  | suspect
  | noTime
deriving DecidableEq, Repr

/-- Peer states (R57). -/
inductive PeerState where
  | absent
  | candidate
  | member
  | missing
deriving DecidableEq, Repr

/-- Record kinds (R5, R123). -/
inductive RecordKind where
  | rise
  | fall
  | chatterOn
  | chatterOff
  | hostMark
  | captureLost
deriving DecidableEq, Repr

/-- Frame kinds (R3). -/
inductive FrameKind where
  | startup
  | beacon
deriving DecidableEq, Repr

/-- Edge settings (R175); `off` is the manual's NONE. -/
inductive Edge where
  | off
  | rise
  | fall
  | both
deriving DecidableEq, Repr

/-- Transaction states of the host port (R146). -/
inductive TransactionState where
  | idle
  | command
  | response
  | discard
deriving DecidableEq, Repr

/-- The nine attention causes (R163). -/
inductive Cause where
  | stateChange
  | memberJoin
  | memberLoss
  | captureLoss
  | journalLoss
  | lateRecord
  | portTimeout
  | timeSuspect
  | duplicate
deriving DecidableEq, Repr

/-- Status codes of a host command (R150). -/
inductive Status where
  | ok
  | empty
  | state
  | arg
  | full
  | conflict
deriving DecidableEq, Repr

/-! ## Settings (chapter 10) -/

/-- The cluster profile (R171): S, L, W, CL, X and G. -/
structure Profile where
  slotCount : Nat
  slotLength : Nat
  window : Nat
  correctionLimit : Nat
  exclusion : Nat
  guard : Nat
deriving DecidableEq, Repr

/-- The settings of one event input (R175). -/
structure InputSettings where
  edge : Edge
  invert : Bool
  debounce : Nat
  chatter : Nat
deriving DecidableEq, Repr

/-- The settings (R170). -/
structure Settings where
  profile : Profile
  inputs : Vector InputSettings 8
  stationNumber : StationNo
  frozen : Bool
  signature : Option Word16
deriving DecidableEq, Repr

/-! ## Line Interface (chapter 1) -/

/-- An order to transmit in the own slot of a round (R7, R19): the frame kind and the departing mark. -/
structure TransmitOrder where
  kind : FrameKind
  departing : Bool
  round : Round
deriving DecidableEq, Repr

/-- The transmitter (R7). SENDING is split at the SOF mark, where the content is taken (R4); the number is the
local time in µs until the SOF mark, then until the last CRC bit (MODEL, from the bit times of R2). -/
inductive Transmitter where
  | idle
  | ordered (order : TransmitOrder)
  | sendingPreamble (order : TransmitOrder) (untilSof : Nat)
  | sendingBody (order : TransmitOrder) (untilEnd : Nat)
deriving DecidableEq, Repr

/-- The receiver (R9); in FRAME it holds the stamped SOF mark and the local counter recorded at it. -/
inductive Receiver where
  | idle
  | preamble
  | frame (sof : CommonTime) (localAt : Nat)
deriving DecidableEq, Repr

/-- The Line Interface (R7, R9, R14). `echo` is what the echo comparator compares with (R8): the kind and the
bytes of the own frame whose echo has not been reported yet. -/
structure LineInterface where
  receiverOn : Bool
  receiver : Receiver
  transmitter : Transmitter
  echo : Option (FrameKind × List Byte)
  valid : Nat
  garbled : Nat
  foreign : Nat
  offSlot : Nat
  echoFailures : Nat
deriving DecidableEq, Repr

/-! ## Station Controller (chapter 2) -/

/-- The start of a slot (R1): slot `slot` of round `round`. -/
structure SlotStart where
  round : Round
  slot : Nat
deriving DecidableEq, Repr

/-- The Station Controller (R16). `slotTimer` is none while the slot timer is stopped and else the next slot
start it will raise (R18). -/
structure Controller where
  station : StationState
  listenTimer : Option Nat
  listenRestarts : Nat
  contention : Option Round
  integration : Option (Round × Bool)
  session : Option Session
  lastUsedSession : Option Session
  leavePending : Bool
  drainCount : Nat
  departingOrder : Bool
  echoRun : Nat
  clampedRun : Nat
  slotTimer : Option SlotStart
deriving DecidableEq, Repr

/-! ## Time Unit (chapter 3) -/

/-- The last-correction record (R51). -/
structure Correction where
  round : Round
  count : Nat
  midpoint : Option Int
  applied : Option Int
  clamped : Bool
deriving DecidableEq, Repr

/-- The Time Unit (R39). -/
structure TimeUnit where
  localCounter : Nat
  correctionOffset : Int
  holdCount : Nat
  deviations : List (StationNo × Int)
  lastCorrection : Option Correction
  quality : Quality
deriving DecidableEq, Repr

/-! ## Membership Table (chapter 4) -/

/-- A peer entry (R57). -/
structure PeerEntry where
  state : PeerState
  heard : Bool
  heardCount : Nat
  missCount : Nat
  lastRound : Option Round
  lastView : Option Word16
  lastQuality : Option Quality
deriving DecidableEq, Repr

/-- The Membership Table (R57). The entry at the own station number is never used. -/
structure Membership where
  peers : Vector PeerEntry 16
  agree : Nat
  disagree : Nat
  grace : Nat
  entryBoundary : Option SlotStart
deriving DecidableEq, Repr

/-! ## Capture Unit (chapter 5) -/

/-- A stamp: common time and time quality read together (R77). -/
structure Stamp where
  time : CommonTime
  quality : Quality
deriving DecidableEq, Repr

/-- A tracker (R75); true is high. A candidate's level is the one other than the stable level. -/
inductive TrackerState where
  | unset (runLevel : Option Bool) (runCount : Nat)
  | stable (level : Bool)
  | candidate (stableLevel : Bool) (count : Nat) (stamp : Stamp)
deriving DecidableEq, Repr

/-- What the Capture Unit holds for one input (R75). -/
structure Tracker where
  state : TrackerState
  windowCount : Nat
  chattering : Bool
deriving DecidableEq, Repr

/-- The pending-loss record (R75, R88). -/
structure PendingLoss where
  first : Stamp
  count : Nat
deriving DecidableEq, Repr

/-- The Capture Unit (R75). `untilSample` is none while the unit does not sample and else the local time in µs
until the next sample event (R76). -/
structure CaptureUnit where
  trackers : Vector Tracker 8
  windowCounter : Nat
  pendingLoss : Option PendingLoss
  untilSample : Option Nat
deriving DecidableEq, Repr

/-! ## Outbound Queue (chapter 6) -/

/-- A queued record (R94). -/
structure QueuedRecord where
  sequence : Sequence
  session : Option Session
  time : CommonTime
  source : Byte
  kind : RecordKind
  value : Word16
  quality : Quality
  announced : Bool
deriving DecidableEq, Repr

/-- The Outbound Queue (R93), oldest record first. -/
structure OutboundQueue where
  records : List QueuedRecord
  nextSequence : Sequence
  issuedThrough : Option Sequence
  ackedThrough : Vector (Option Sequence) 16
  peerSessions : Vector (Option Session) 16
  captureLost : Nat
  abandoned : Nat
deriving DecidableEq, Repr

/-! ## Receipt Unit (chapter 7) -/

/-- A receipt entry (R110). -/
structure ReceiptEntry where
  knownSession : Option Session
  receivedThrough : Option Sequence
  issuedThrough : Option Sequence
  watermark : Option CommonTime
deriving DecidableEq, Repr

/-- The Receipt Unit (R110). -/
structure ReceiptUnit where
  entries : Vector ReceiptEntry 16
  duplicates : Nat
  gaps : Nat
deriving DecidableEq, Repr

/-! ## Journal (chapter 8) -/

/-- A Journal record (R123), with its awaiting-session mark (R122). -/
structure JournalRecord where
  origin : StationNo
  session : Option Session
  sequence : Sequence
  time : CommonTime
  source : Byte
  kind : RecordKind
  value : Word16
  quality : Quality
  late : Bool
  forced : Bool
  awaiting : Bool
deriving DecidableEq, Repr

/-- The Journal (R122). `pinned` says that the head of the released part is pinned. -/
structure Journal where
  released : List JournalRecord
  unreleased : List JournalRecord
  horizon : Option CommonTime
  pinned : Bool
  overrun : Nat
  overflow : Nat
  late : Nat
  forced : Nat
deriving DecidableEq, Repr

/-! ## Host Port (chapter 9) and pins -/

/-- The Host Port (R146). The attention set and mask are sets of the nine causes, one bit each in the numbering
of R169. `bitCount` and `shift` are the rising edges and bits of the byte under way (R147). -/
structure HostPort where
  transaction : TransactionState
  received : List Byte
  buffer : List Byte
  bytesSent : Nat
  timer : Option Nat
  attention : BitVec 9
  mask : BitVec 9
  bitCount : Nat
  shift : Byte
deriving DecidableEq, Repr

/-- The levels of the input pins that act for longer than one event: a reset under way (power coming on, or
RESETn low) and SELn low. The other inputs are read at one instant, by the command that carries their levels;
the outputs RDY, ATTN and SDO are functions of the state (Flags.lean, HostPort.lean). -/
structure Pins where
  resetLow : Bool
  selnLow : Bool
deriving DecidableEq, Repr

/-! ## The machine -/

/-- The whole state of one E416, and the commands that wait to be taken, first in, first out. -/
structure State where
  settings : Settings
  line : LineInterface
  ctrl : Controller
  time : TimeUnit
  members : Membership
  capture : CaptureUnit
  queue : OutboundQueue
  receipts : ReceiptUnit
  journal : Journal
  port : HostPort
  pins : Pins
  pending : List Instr
deriving DecidableEq, Repr

/-- Why a step could stop with a fault: the manual names nothing that stops the part, so there is no reason. -/
inductive Fault where
deriving DecidableEq, Repr

/-- Why a step could be refused. -/
inductive Refusal where
  /-- Raised by `exec` for a row that has no meaning yet (safe). No row is left so. -/
  | notModelled (mnemonic : String)
deriving DecidableEq, Repr

/-! ## Reset values -/

/-- The default profile (R171). -/
def Profile.default : Profile :=
  { slotCount := 8, slotLength := 1000, window := 10, correctionLimit := 5, exclusion := 3, guard := 50 }

/-- The default settings of an input (R175). -/
def InputSettings.default : InputSettings :=
  { edge := .both, invert := false, debounce := 4, chatter := 0 }

/-- The settings after a reset (R170), before the straps are sampled. -/
def Settings.reset : Settings :=
  { profile := .default, inputs := Vector.replicate 8 .default, stationNumber := 0, frozen := false
    signature := none }

/-- The Line Interface after a reset (R15). -/
def LineInterface.reset : LineInterface :=
  { receiverOn := false, receiver := .idle, transmitter := .idle, echo := none
    valid := 0, garbled := 0, foreign := 0, offSlot := 0, echoFailures := 0 }

/-- The Station Controller after a reset (R16). -/
def Controller.reset : Controller :=
  { station := .config, listenTimer := none, listenRestarts := 0, contention := none, integration := none
    session := none, lastUsedSession := none, leavePending := false, drainCount := 0
    departingOrder := false, echoRun := 0, clampedRun := 0, slotTimer := none }

/-- The Time Unit after a reset (R39). -/
def TimeUnit.reset : TimeUnit :=
  { localCounter := 0, correctionOffset := 0, holdCount := 0, deviations := [], lastCorrection := none
    quality := .noTime }

/-- A peer entry after a reset (R57). -/
def PeerEntry.reset : PeerEntry :=
  { state := .absent, heard := false, heardCount := 0, missCount := 0, lastRound := none, lastView := none
    lastQuality := none }

/-- The Membership Table after a reset (R57). -/
def Membership.reset : Membership :=
  { peers := Vector.replicate 16 .reset, agree := 0, disagree := 0, grace := 0, entryBoundary := none }

/-- What is held for one input after a reset (R75). -/
def Tracker.reset : Tracker :=
  { state := .unset none 0, windowCount := 0, chattering := false }

/-- The Capture Unit after a reset (R75, R92). -/
def CaptureUnit.reset : CaptureUnit :=
  { trackers := Vector.replicate 8 .reset, windowCounter := 0, pendingLoss := none, untilSample := none }

/-- The Outbound Queue after a reset (R93). -/
def OutboundQueue.reset : OutboundQueue :=
  { records := [], nextSequence := 0, issuedThrough := none, ackedThrough := Vector.replicate 16 none
    peerSessions := Vector.replicate 16 none, captureLost := 0, abandoned := 0 }

/-- A receipt entry after a reset (R110). -/
def ReceiptEntry.reset : ReceiptEntry :=
  { knownSession := none, receivedThrough := none, issuedThrough := none, watermark := none }

/-- The Receipt Unit after a reset (R110). -/
def ReceiptUnit.reset : ReceiptUnit :=
  { entries := Vector.replicate 16 .reset, duplicates := 0, gaps := 0 }

/-- The Journal after a reset (R122). -/
def Journal.reset : Journal :=
  { released := [], unreleased := [], horizon := none, pinned := false
    overrun := 0, overflow := 0, late := 0, forced := 0 }

/-- The Host Port after a reset (R146), SELn being high when it ends. -/
def HostPort.reset : HostPort :=
  { transaction := .idle, received := [], buffer := [], bytesSent := 0, timer := none
    attention := 0, mask := 0x1FF, bitCount := 0, shift := 0 }

/-- The machine right after a reset: the straps unconnected, so that they read 0 (R176), and SELn high
(DESIGN CHOICE, log 6); nothing waits. -/
def State.reset : State :=
  { settings := .reset, line := .reset, ctrl := .reset, time := .reset, members := .reset
    capture := .reset, queue := .reset, receipts := .reset, journal := .reset, port := .reset
    pins := { resetLow := false, selnLow := false }, pending := [] }

/-! ## One update for each block -/

def State.setSettings (s : State) (x : Settings) : State := { s with settings := x }
def State.setLine (s : State) (x : LineInterface) : State := { s with line := x }
def State.setCtrl (s : State) (x : Controller) : State := { s with ctrl := x }
def State.setTime (s : State) (x : TimeUnit) : State := { s with time := x }
def State.setMembers (s : State) (x : Membership) : State := { s with members := x }
def State.setCapture (s : State) (x : CaptureUnit) : State := { s with capture := x }
def State.setQueue (s : State) (x : OutboundQueue) : State := { s with queue := x }
def State.setReceipts (s : State) (x : ReceiptUnit) : State := { s with receipts := x }
def State.setJournal (s : State) (x : Journal) : State := { s with journal := x }
def State.setPort (s : State) (x : HostPort) : State := { s with port := x }
def State.setPins (s : State) (x : Pins) : State := { s with pins := x }
def State.setPending (s : State) (x : List Instr) : State := { s with pending := x }

end Sys2Proof.Machine
end

