-- ==== Sys2Proof/Machine/Clock.lean ====
section
/-! DEFINITION. Arithmetic of common time, rounds, slots, sequence numbers and saturating counts, and the passing of
local time (00_scope "Conventions"; R1, R12, R18, R40 to R42, R50). -/

namespace Sys2Proof

/-- "Earlier" compares the round first and then the offset (00_scope "Time"); it does not look across the
wrap (R42). -/
def CommonTime.earlier (a b : CommonTime) : Bool :=
  decide (a.round < b.round) || (decide (a.round = b.round) && decide (a.offset < b.offset))

/-- At or before. -/
def CommonTime.notAfter (a b : CommonTime) : Bool := !b.earlier a

/-- The earlier of two common times. -/
def CommonTime.earliest (a b : CommonTime) : CommonTime := if b.earlier a then b else a

/-- `gap` µs before a common time, borrowing across rounds of length `rl` (00_scope "Time"); none where it would
borrow below round 0 (R129). -/
def CommonTime.minus (rl : Nat) (t : CommonTime) (gap : Nat) : Option CommonTime :=
  if gap ≤ t.offset then some { t with offset := t.offset - gap }
  else if t.round = 0 then none
  else some { round := t.round - 1, offset := t.offset + rl - gap }

/-- A common time as a count of µs since the start of round 0 (R41). -/
def CommonTime.count (rl : Nat) (t : CommonTime) : Nat := t.round.toNat * rl + t.offset

/-- A count presented as a round and an offset (R41). -/
def CommonTime.ofCount (rl count : Nat) : CommonTime :=
  { round := BitVec.ofNat 40 (count / rl), offset := count % rl }

/-- a follows b: (a - b) mod 32768 lies between 1 and 16383 (00_scope "Sequence numbers"). -/
def followsSeq (a b : Sequence) : Bool :=
  decide (1 ≤ (a - b).toNat) && decide ((a - b).toNat ≤ 16383)

/-- a follows or equals b. -/
def followsOrEqualsSeq (a b : Sequence) : Bool := decide (a = b) || followsSeq a b

end Sys2Proof

namespace Sys2Proof.Machine

/-- The value of a 16-bit counter after an increase by n: it saturates at 65535 (R14, R185). -/
def countUp (c n : Nat) : Nat := min (c + n) 65535

/-- The value of an 8-bit saturating count after an increase by 1 (R57, R75). -/
def countUp255 (c : Nat) : Nat := min (c + 1) 255

/-- All station numbers. -/
def allStations : List StationNo := [0, 1, 2, 3, 4, 5, 6, 7, 8, 9, 10, 11, 12, 13, 14, 15]

/-- All input numbers. -/
def allInputs : List InputNo := [0, 1, 2, 3, 4, 5, 6, 7]

/-- The round length S × L (R171). -/
def Profile.roundLength (p : Profile) : Nat := p.slotCount * p.slotLength

/-- The count at which common time wraps to 0: 2^40 × S × L (R41, R42). -/
def Profile.cycle (p : Profile) : Nat := 2 ^ 40 * p.roundLength

/-- The own station number (R176). -/
def State.own (s : State) : StationNo := s.settings.stationNumber

/-- The round length of the profile held. -/
def State.roundLength (s : State) : Nat := s.settings.profile.roundLength

/-- Common time as a count: the local counter plus the correction offset, modulo 2^40 × S × L (R41). -/
def TimeUnit.count (t : TimeUnit) (p : Profile) : Nat :=
  ((t.localCounter + t.correctionOffset : Int) % (p.cycle : Int)).toNat

/-- Common time as the blocks read it (R41). -/
def State.commonTime (s : State) : CommonTime :=
  .ofCount s.roundLength (s.time.count s.settings.profile)

/-- Common time and quality read together (R77). -/
def State.stampNow (s : State) : Stamp := { time := s.commonTime, quality := s.time.quality }

/-- Set the correction offset so that common time is this count at this instant (R43, R44). -/
def TimeUnit.moveTo (t : TimeUnit) (count : Nat) : TimeUnit :=
  { t with correctionOffset := (count : Int) - t.localCounter }

/-- What lies 1 µs before common time (0, 0): a free value whose offset lies in the round (R167; log 4). -/
def State.beforeOrigin (s : State) : CommonTime :=
  let free := Config.timeBeforeOrigin s.time.localCounter
  { free with offset := free.offset % s.roundLength }

/-- The common time 1 µs before t, borrowing across rounds (R91, R99); a free value before (0, 0) (log 4). -/
def State.justBefore (s : State) (t : CommonTime) : CommonTime := (t.minus s.roundLength 1).getD s.beforeOrigin

/-- The station holds time in every state but CONFIG, LISTEN with quality NONE, DEPARTED and FAULT (R12). -/
def State.holdsTime (s : State) : Bool :=
  match s.ctrl.station with
  | .listen => s.time.quality != .noTime
  | .coldstart | .integrate | .active => true
  | .config | .departed | .faulted => false

/-! ## Slots -/

/-- The slot start after this one (R1). -/
def SlotStart.next (p : Profile) (b : SlotStart) : SlotStart :=
  if b.slot + 1 < p.slotCount then { b with slot := b.slot + 1 } else { round := b.round + 1, slot := 0 }

/-- The first slot start later than a common time (R18). -/
def slotStartAfter (p : Profile) (t : CommonTime) : SlotStart :=
  SlotStart.next p { round := t.round, slot := t.offset / p.slotLength }

/-- The slot start as a count of common time (R1). -/
def SlotStart.count (p : Profile) (b : SlotStart) : Nat :=
  b.round.toNat * p.roundLength + b.slot * p.slotLength

/-- How far common time must advance to reach a count that lies at most `reach` µs ahead; none where common
time has passed it already. -/
def State.ahead (s : State) (count reach : Nat) : Option Nat :=
  let cycle : Int := s.settings.profile.cycle
  let d := (((count : Int) - s.time.count s.settings.profile) % cycle).toNat
  if d ≤ reach then some d else none

/-- The local time in µs until common time has advanced by d: a hold under way is waited out (R18, R50). -/
def State.localUntil (s : State) (d : Nat) : Nat := if d = 0 then 0 else s.time.holdCount + d

/-! ## The passing of local time -/

/-- dt microseconds of local time pass: while the hold count is above 0 each decreases it and the correction
offset by 1 (R50). -/
def TimeUnit.pass (dt : Nat) (t : TimeUnit) : TimeUnit :=
  let held := min t.holdCount dt
  { t with
    localCounter := t.localCounter + dt
    correctionOffset := t.correctionOffset - held
    holdCount := t.holdCount - held }

/-- The transmitter's bit times pass (R2). -/
def Transmitter.pass (dt : Nat) : Transmitter → Transmitter
  | .sendingPreamble o n => .sendingPreamble o (n - dt)
  | .sendingBody o n => .sendingBody o (n - dt)
  | .ordered o => .ordered o
  | .idle => .idle

/-- dt microseconds of local time pass (R40): the local counter, the hold (R50), the listen timer (R21), the
sampling interval (R76), the port timer (R147) and the transmitter (R2) move; no event is taken. -/
def passTime (dt : Nat) (s : State) : State :=
  { s with
    time := s.time.pass dt
    ctrl := { s.ctrl with listenTimer := s.ctrl.listenTimer.map (· - dt) }
    capture := { s.capture with untilSample := s.capture.untilSample.map (· - dt) }
    port := { s.port with timer := s.port.timer.map (· + dt) }
    line := { s.line with transmitter := s.line.transmitter.pass dt } }

/-- Local time until the next slot boundary is due (R18); none while the slot timer is stopped. -/
def State.untilBoundary (s : State) : Option Nat :=
  s.ctrl.slotTimer.map fun b =>
    s.localUntil ((s.ahead (b.count s.settings.profile) s.settings.profile.slotLength).getD 0)

/-- How far common time still lies before slot start + 16 µs of the own slot of a round; the preamble starts at
slot start + 16.8 µs (R2). None once common time has passed it. -/
def State.aheadOfPreamble (s : State) (round : Round) : Option Nat :=
  let p := s.settings.profile
  s.ahead (SlotStart.count p { round := round, slot := s.own.val } + 16) p.roundLength

/-- Local time until the preamble start is due; none without an order. -/
def State.untilPreamble (s : State) : Option Nat :=
  match s.line.transmitter with
  | .ordered o => some (s.localUntil ((s.aheadOfPreamble o.round).getD 0))
  | _ => none

end Sys2Proof.Machine
end

