-- ==== Sys2Proof/Machine/Flags.lean ====
section
/-! DEFINITION. The attention set and its two persistent causes, the lines RDY and ATTN, and the thirteen counters
(R14, R155, R157, R163 to R166, R185). -/

namespace Sys2Proof.Machine

/-- The bit of a cause (R169 "Attention set"). -/
def Cause.bit : Cause → Nat
  | .stateChange => 0
  | .memberJoin => 1
  | .memberLoss => 2
  | .captureLoss => 3
  | .journalLoss => 4
  | .lateRecord => 5
  | .portTimeout => 6
  | .timeSuspect => 7
  | .duplicate => 8

/-- The set that holds one cause. -/
def Cause.mask (c : Cause) : BitVec 9 := BitVec.twoPow 9 c.bit

/-- A cause is in the attention set. -/
def State.raised (s : State) (c : Cause) : Bool := s.port.attention.getLsbD c.bit

/-- Add a cause to the attention set; a cause already in it stays, once (R163). -/
def raise (c : Cause) (s : State) : State :=
  s.setPort { s.port with attention := s.port.attention ||| c.mask }

/-- Add a cause to the attention set where a condition holds. -/
def raiseIf (b : Bool) (c : Cause) (s : State) : State := if b then raise c s else s

/-- The condition of TIME_SUSPECT: out of CONFIG with quality SUSPECT or NONE (R163, R183). -/
def State.timeSuspect (s : State) : Bool :=
  s.ctrl.station != .config && (s.time.quality == .suspect || s.time.quality == .noTime)

/-- The condition of DUPLICATE: the station is in FAULT (R163, R184). -/
def State.duplicated (s : State) : Bool := s.ctrl.station == .faulted

/-- Add each persistent cause whose condition holds (R163, R164). -/
def holdPersistent (s : State) : State :=
  raiseIf s.duplicated .duplicate (raiseIf s.timeSuspect .timeSuspect s)

/-- RDY is asserted exactly while the released part is non-empty (R143, R166). -/
def State.rdy (s : State) : Bool := !s.journal.released.isEmpty

/-- ATTN is asserted exactly while the attention set and the mask share a cause (R166). -/
def State.attn (s : State) : Bool := s.port.attention &&& s.port.mask != 0

/-- The thirteen counters in the order of READ_COUNTS (R155, R169). -/
def State.counters (s : State) : List Nat :=
  [s.line.valid, s.line.garbled, s.line.foreign, s.line.offSlot, s.line.echoFailures,
   s.queue.captureLost, s.queue.abandoned, s.receipts.duplicates, s.receipts.gaps,
   s.journal.overrun, s.journal.overflow, s.journal.late, s.journal.forced]

/-- All thirteen counters become 0 and nothing else changes (R157). -/
def clearCounters (s : State) : State :=
  { s with
    line := { s.line with valid := 0, garbled := 0, foreign := 0, offSlot := 0, echoFailures := 0 }
    queue := { s.queue with captureLost := 0, abandoned := 0 }
    receipts := { s.receipts with duplicates := 0, gaps := 0 }
    journal := { s.journal with overrun := 0, overflow := 0, late := 0, forced := 0 } }

end Sys2Proof.Machine
end

