-- ==== Sys2Proof/Machine/JournalOps.lean ====
section
/-! DEFINITION. The Journal's operations (chapter 8): insertion and placement, the full-journal handling, release,
the taking of a session, and the pin. Those on `Journal` read and write the Journal alone; the causes they
set are added by `journalInsert`. -/

namespace Sys2Proof.Machine

/-- Two records share an identity (origin, session, sequence); records whose session is none do not (R124). -/
def JournalRecord.sameIdentity (a b : JournalRecord) : Bool :=
  a.session.isSome && a.origin == b.origin && a.session == b.session && a.sequence == b.sequence

/-- The key of a is earlier than that of b: timestamp first, then origin (R124). -/
def JournalRecord.keyEarlier (a b : JournalRecord) : Bool :=
  a.time.earlier b.time || (a.time == b.time && decide (a.origin < b.origin))

/-- Both parts, the released first. -/
def Journal.records (j : Journal) : List JournalRecord := j.released ++ j.unreleased

/-- How many records the two parts hold (R122). -/
def Journal.held (j : Journal) : Nat := j.released.length + j.unreleased.length

/-- Enter a record after every record whose key is earlier than or equal to its own and before every record
whose key is later (R126). -/
def placeByKey (r : JournalRecord) : List JournalRecord → List JournalRecord
  | [] => [r]
  | x :: xs => if r.keyEarlier x then r :: x :: xs else x :: placeByKey r xs

/-- A record stamped at or before the horizon is too late for the unreleased part (R126). -/
def Journal.isLate (j : Journal) (r : JournalRecord) : Bool :=
  match j.horizon with
  | some h => r.time.notAfter h
  | none => false

/-- Place a record by its timestamp and the horizon (R126). -/
def Journal.place (j : Journal) (r : JournalRecord) : Journal :=
  if j.isLate r then
    { j with released := j.released ++ [{ r with late := true }], late := countUp j.late 1 }
  else { j with unreleased := placeByKey r j.unreleased }

/-- Discard the oldest released record that is not pinned; none where there is none (R133). -/
def Journal.discardReleased (j : Journal) : Option Journal :=
  match j.pinned, j.released with
  | false, _ :: rest => some { j with released := rest, overrun := countUp j.overrun 1 }
  | true, head :: _ :: rest => some { j with released := head :: rest, overrun := countUp j.overrun 1 }
  | _, _ => none

/-- Release the earliest unreleased record, and every other of its timestamp, with FORCED set (R135). -/
def Journal.forcedRelease (j : Journal) : Journal :=
  match j.unreleased with
  | [] => j
  | first :: _ =>
    let moved := j.unreleased.filter fun r => r.time == first.time
    { j with
      released := j.released ++ moved.map fun r => { r with forced := true }
      unreleased := j.unreleased.filter fun r => r.time != first.time
      horizon := some first.time
      forced := countUp j.forced moved.length }

/-- The incoming record is not the one latest in key order (R134): it is placed after the latest is discarded.
It counts as inserted last, so at equal keys it is the latest. -/
def Journal.displaces (j : Journal) (r : JournalRecord) : Bool :=
  match j.unreleased.getLast? with
  | some last => r.keyEarlier last
  | none => false

/-- Discard by key, then the forced release (R134, R135). -/
def Journal.discardByKey (j : Journal) (r : JournalRecord) : Journal :=
  let counted := { j with overflow := countUp j.overflow 1 }
  if j.displaces r then
    (Journal.place { counted with unreleased := j.unreleased.dropLast } r).forcedRelease
  else counted.forcedRelease

/-- The Journal holds a record of this identity (R125). -/
def Journal.holds (j : Journal) (r : JournalRecord) : Bool := j.records.any r.sameIdentity

/-- The Journal is full (R133). -/
def Journal.isFull (j : Journal) : Bool := decide (256 ≤ j.held)

/-- Make room for a record and place it (R126, R133, R134). -/
def Journal.admitRecord (j : Journal) (r : JournalRecord) : Journal :=
  if j.isFull then
    match j.discardReleased with
    | some j' => j'.place r
    | none => j.discardByKey r
  else j.place r

/-- Insert a record: drop it if its identity is held (R125), else make room and place it. -/
def Journal.insert (j : Journal) (r : JournalRecord) : Journal :=
  if j.holds r then j else j.admitRecord r

/-- Insert a record and set the causes: JOURNAL_LOSS at a discard, LATE_RECORD at a LATE placement (R181). -/
def journalInsert (r : JournalRecord) (s : State) : State :=
  let j := s.journal
  let placed := !j.holds r && (!j.isFull || j.discardReleased.isSome || j.displaces r)
  raiseIf (placed && j.isLate r) .lateRecord
    (raiseIf (!j.holds r && j.isFull) .journalLoss (s.setJournal (j.insert r)))

/-- Move every unreleased record at or before the horizon to the tail of the released part, in key order (R130). -/
def Journal.releaseThrough (j : Journal) (h : CommonTime) : Journal :=
  { j with
    released := j.released ++ j.unreleased.filter fun r => r.time.notAfter h
    unreleased := j.unreleased.filter fun r => !r.time.notAfter h
    horizon := some h }

/-- A release step with its candidate (R129, steps 3 and 4). -/
def Journal.releaseStep (j : Journal) (candidate : CommonTime) : Journal :=
  match j.horizon with
  | none => j.releaseThrough candidate
  | some h => j.releaseThrough (if h.earlier candidate then candidate else h)

/-- Release the whole unreleased part with FORCED set (R137). -/
def Journal.finalRelease (j : Journal) : Journal :=
  match j.unreleased.getLast? with
  | none => j
  | some last =>
    { j with
      released := j.released ++ j.unreleased.map fun r => { r with forced := true }
      unreleased := []
      horizon := some last.time
      forced := countUp j.forced j.unreleased.length }

/-- A record takes the session and loses its awaiting-session mark (R127). -/
def JournalRecord.takeSession (session : Session) (r : JournalRecord) : JournalRecord :=
  if r.awaiting then { r with session := some session, awaiting := false } else r

/-- The sequences of own records that already hold the session (R127). -/
def Journal.sequencesUnder (j : Journal) (own : StationNo) (session : Session) : List Sequence :=
  (j.records.filter fun r => !r.awaiting && r.origin == own && r.session == some session).map (·.sequence)

/-- The sequence of the pinned record, where that record takes the session (R127). -/
def Journal.pinnedTaking (j : Journal) : Option Sequence :=
  match j.pinned, j.released with
  | true, head :: _ => if head.awaiting then some head.sequence else none
  | _, _ => none

/-- A record stays when a session is taken: one that takes it goes if its identity is held already, and one that
holds it goes if the pinned record takes its identity (R127). -/
def Journal.staysAt (j : Journal) (own : StationNo) (session : Session) (r : JournalRecord) : Bool :=
  if r.awaiting then !(j.sequencesUnder own session).contains r.sequence
  else !(r.origin == own && r.session == some session && j.pinnedTaking == some r.sequence)

/-- Own records that await a session take it; a record whose identity then repeats is dropped, never the pinned
one (R127). -/
def Journal.takeSession (j : Journal) (own : StationNo) (session : Session) : Journal :=
  let settle (l : List JournalRecord) :=
    (l.filter (j.staysAt own session)).map (JournalRecord.takeSession session)
  { j with
    released :=
      match j.pinned, j.released with
      | true, head :: rest => head.takeSession session :: settle rest
      | _, l => settle l
    unreleased := settle j.unreleased }

/-- REJOIN: the horizon becomes none and every awaiting-session mark is cleared (R127, R128, R138). -/
def Journal.rejoin (j : Journal) : Journal :=
  { j with
    released := j.released.map fun r => { r with awaiting := false }
    unreleased := j.unreleased.map fun r => { r with awaiting := false }
    horizon := none }

/-- A completed read removes the pinned head (R140). -/
def Journal.completeRead (j : Journal) : Journal :=
  if j.pinned then { j with released := j.released.tail, pinned := false } else j

/-- An abandoned read unpins the head and leaves it (R140). -/
def Journal.abandonRead (j : Journal) : Journal := { j with pinned := false }

end Sys2Proof.Machine
end

