-- ==== Sys2Proof/Machine/Operands.lean ====
section
/-! DEFINITION. The byte layouts of the manual: byte order, the CRC (R6), the frame on the line (R3, R5, R167), the
host record (R168) and the codes of R167 and R169. -/

namespace Sys2Proof.Machine

/-! ## Byte order and CRC -/

/-- The low n bytes of a number, most significant byte first (section 9.6). -/
def bytesOf : Nat → Nat → List Byte
  | 0, _ => []
  | n + 1, x => BitVec.ofNat 8 (x / 2 ^ (8 * n)) :: bytesOf n x

/-- The number in `n` bytes from position `at_` of a list; a byte beyond its end reads 0. -/
def field (bytes : List Byte) (at_ n : Nat) : Nat :=
  match n with
  | 0 => 0
  | n + 1 => (bytes.getD at_ 0).toNat * 2 ^ (8 * n) + field bytes (at_ + 1) n

/-- One bit of the CRC with polynomial 0x1021 (R6). -/
def crcBit (crc : Word16) : Word16 :=
  if crc.getMsbD 0 then (crc <<< 1) ^^^ 0x1021#16 else crc <<< 1

/-- One byte of the CRC, most significant bit first (R6). -/
def crcByte (crc : Word16) (b : Byte) : Word16 :=
  crcBit (crcBit (crcBit (crcBit (crcBit (crcBit (crcBit (crcBit (crc ^^^ (b.setWidth 16 <<< 8)))))))))

/-- The 16-bit CRC with polynomial 0x1021 and initial value 0xFFFF (R6, R173). -/
def crc16 (bytes : List Byte) : Word16 := bytes.foldl crcByte 0xFFFF#16

/-! ## Codes -/

/-- Quality codes (R167). -/
def Quality.code : Quality → Nat
  | .sound => 0
  | .sole => 1
  | .suspect => 2
  | .noTime => 3

/-- The quality of a two-bit code (R167). -/
def qualityOfCode (n : Nat) : Quality :=
  match n % 4 with
  | 0 => .sound
  | 1 => .sole
  | 2 => .suspect
  | _ => .noTime

/-- Record kind codes (R167). -/
def RecordKind.code : RecordKind → Nat
  | .rise => 1
  | .fall => 2
  | .chatterOn => 3
  | .chatterOff => 4
  | .hostMark => 5
  | .captureLost => 6

/-- The record kind of a code, none outside 1 to 6 (R10, R167). -/
def recordKindOfCode : Nat → Option RecordKind
  | 1 => some .rise
  | 2 => some .fall
  | 3 => some .chatterOn
  | 4 => some .chatterOff
  | 5 => some .hostMark
  | 6 => some .captureLost
  | _ => none

/-- Frame kind codes (R167). -/
def FrameKind.code : FrameKind → Byte
  | .startup => 0x1E
  | .beacon => 0x2D

/-- The frame kind of a byte, none where it names neither (R10, R167). -/
def frameKindOfCode (b : Byte) : Option FrameKind :=
  if b = 0x1E then some .startup else if b = 0x2D then some .beacon else none

/-- Station state codes (R169 "GET_STATUS response"). -/
def StationState.code : StationState → Nat
  | .config => 0
  | .listen => 1
  | .coldstart => 2
  | .integrate => 3
  | .active => 4
  | .departed => 5
  | .faulted => 6

/-- Peer state codes (R169 "READ_PEER response"). -/
def PeerState.code : PeerState → Nat
  | .absent => 0
  | .candidate => 1
  | .member => 2
  | .missing => 3

/-- Status codes (R169). -/
def Status.code : Status → Byte
  | .ok => 0x00
  | .empty => 0x01
  | .state => 0x02
  | .arg => 0x03
  | .full => 0x04
  | .conflict => 0x05

/-- The edge setting of a two-bit code (R169 "Input argument"). -/
def edgeOfCode (n : Nat) : Edge :=
  match n % 4 with
  | 0 => .off
  | 1 => .rise
  | 2 => .fall
  | _ => .both

/-! ## Frames -/

/-- A wire record (R5). -/
structure WireRecord where
  sequence : Sequence
  time : CommonTime
  source : Byte
  kind : RecordKind
  quality : Quality
  value : Word16
deriving DecidableEq, Repr

/-- A vector entry that holds a pair: the session byte and received-through (R5). -/
structure Receipt where
  sessionByte : Byte
  through : Sequence
deriving DecidableEq, Repr

/-- The content of a frame between preamble and CRC (R3); the announcement count is the announcements' number. -/
structure Frame where
  kind : FrameKind
  station : StationNo
  signature : Word16
  session : Session
  round : Round
  departing : Bool
  leavePending : Bool
  quality : Quality
  view : Word16
  issuedThrough : Option Sequence
  watermark : Option CommonTime
  receipts : Vector (Option Receipt) 16
  announcements : List WireRecord
deriving DecidableEq, Repr

/-- The preamble (R167). -/
def preambleBytes : List Byte := [0x55, 0x9B]

/-- The preamble as the first sixteen bits of a burst (R9, R167). -/
def preamblePattern : Word16 := 0x559B

/-- The flags byte of a frame (R167): bit 7 departing, bit 6 leave pending, bits 1 to 0 quality. -/
def Frame.flags (f : Frame) : Nat :=
  (if f.departing then 128 else 0) + (if f.leavePending then 64 else 0) + f.quality.code

/-- A sequence field, none as 0xFFFF (R167). -/
def sequenceBytes : Option Sequence → List Byte
  | some q => bytesOf 2 q.toNat
  | none => [0xFF, 0xFF]

/-- The watermark fields (R167). -/
def watermarkBytes : Option CommonTime → List Byte
  | some t => bytesOf 5 t.round.toNat ++ bytesOf 2 t.offset
  | none => List.replicate 7 0xFF

/-- A vector entry (R167). -/
def receiptBytes : Option Receipt → List Byte
  | some r => r.sessionByte :: bytesOf 2 r.through.toNat
  | none => [0xFF, 0xFF, 0xFF]

/-- A wire record (R167). -/
def WireRecord.bytes (w : WireRecord) : List Byte :=
  bytesOf 2 w.sequence.toNat ++ bytesOf 5 w.time.round.toNat ++ bytesOf 2 w.time.offset ++
    [w.source, BitVec.ofNat 8 (w.kind.code * 16 + w.quality.code)] ++ bytesOf 2 w.value.toNat

/-- The 24 header bytes (R6, R167). -/
def Frame.headerBytes (f : Frame) : List Byte :=
  [f.kind.code, BitVec.ofNat 8 f.station.val] ++ bytesOf 2 f.signature.toNat ++
    bytesOf 2 f.session.toNat ++ bytesOf 5 f.round.toNat ++ [BitVec.ofNat 8 f.flags] ++
    bytesOf 2 f.view.toNat ++ sequenceBytes f.issuedThrough ++ watermarkBytes f.watermark ++
    [BitVec.ofNat 8 f.announcements.length]

/-- The bytes the CRC covers: header, receipt vector, announcements (R6). -/
def Frame.bodyBytes (f : Frame) : List Byte :=
  f.headerBytes ++ f.receipts.toList.flatMap receiptBytes ++ f.announcements.flatMap WireRecord.bytes

/-- The bytes of a frame after its SOF mark (R6, R167). -/
def Frame.bytes (f : Frame) : List Byte :=
  f.bodyBytes ++ bytesOf 2 (crc16 f.bodyBytes).toNat

/-- The sequence in two bytes, none where bit 15 is set (R167). -/
def sequenceAt (bytes : List Byte) (at_ : Nat) : Option Sequence :=
  let n := field bytes at_ 2
  if n < 32768 then some (BitVec.ofNat 15 n) else none

/-- The watermark of a received frame, none where its offset reads 0xFFFF (R167). -/
def watermarkAt (bytes : List Byte) : Option CommonTime :=
  let offset := field bytes 21 2
  if offset = 0xFFFF then none else some { round := BitVec.ofNat 40 (field bytes 16 5), offset := offset }

/-- The vector entry for one station number (R167). -/
def receiptAt (bytes : List Byte) (k : StationNo) : Option Receipt :=
  (sequenceAt bytes (24 + 3 * k.val + 1)).map fun q =>
    { sessionByte := bytes.getD (24 + 3 * k.val) 0, through := q }

/-- A received wire record, none where its kind code, quality code, source or offset is one that R10 rejects. -/
def wireRecordAt (rl : Nat) (bytes : List Byte) (at_ : Nat) : Option WireRecord :=
  let mixed := field bytes (at_ + 9 + 1) 1
  let source := bytes.getD (at_ + 9) 0
  let offset := field bytes (at_ + 7) 2
  match recordKindOfCode (mixed / 16), qualityOfCode mixed with
  | none, _ => none
  | some _, .noTime => none
  | some kind, quality =>
    if 9 < source.toNat || rl ≤ offset then none
    else some
      { sequence := BitVec.ofNat 15 (field bytes at_ 2)
        time := { round := BitVec.ofNat 40 (field bytes (at_ + 2) 5), offset := offset }
        source := source
        kind := kind
        quality := quality
        value := BitVec.ofNat 16 (field bytes (at_ + 11) 2) }

/-- The n wire records from a position on; none where one of them is rejected. -/
def wireRecordsAt (rl : Nat) (bytes : List Byte) : Nat → Nat → Option (List WireRecord)
  | 0, _ => some []
  | n + 1, at_ =>
    match wireRecordAt rl bytes at_, wireRecordsAt rl bytes n (at_ + 13) with
    | some w, some ws => some (w :: ws)
    | _, _ => none

/-- A received frame read by the layout of R167 in rounds of length `rl`; none where R10 makes it garbled. -/
def readFrame (rl : Nat) (bytes : List Byte) : Option Frame :=
  let n := field bytes 23 1
  if bytes.length < 24 then none else
  match frameKindOfCode (bytes.getD 0 0) with
  | none => none
  | some kind =>
    if h : field bytes 1 1 < 16 then
      if 4 < n || (kind == .startup && n != 0) || bytes.length != 74 + 13 * n then none
      else if (crc16 (bytes.take (72 + 13 * n))).toNat ≠ field bytes (72 + 13 * n) 2 then none
      else
        match wireRecordsAt rl bytes n 72 with
        | none => none
        | some announcements => some
          { kind := kind
            station := ⟨field bytes 1 1, h⟩
            signature := BitVec.ofNat 16 (field bytes 2 2)
            session := BitVec.ofNat 16 (field bytes 4 2)
            round := BitVec.ofNat 40 (field bytes 6 5)
            departing := (bytes.getD 11 0).getLsbD 7
            leavePending := (bytes.getD 11 0).getLsbD 6
            quality := qualityOfCode (field bytes 11 1)
            view := BitVec.ofNat 16 (field bytes 12 2)
            issuedThrough := sequenceAt bytes 14
            watermark := watermarkAt bytes
            receipts := Vector.ofFn (receiptAt bytes)
            announcements := announcements }
    else none

/-! ## Host records and settings -/

/-- The sixteen bytes of a record as the host reads it (R168). -/
def JournalRecord.hostBytes (r : JournalRecord) : List Byte :=
  [BitVec.ofNat 8 (r.origin.val * 16 + r.quality.code * 4 + (if r.late then 2 else 0) +
    (if r.forced then 1 else 0))] ++
    bytesOf 2 ((r.session.getD 0).toNat) ++
    bytesOf 2 (r.sequence.toNat + (if r.session.isNone then 32768 else 0)) ++
    bytesOf 5 r.time.round.toNat ++ bytesOf 2 r.time.offset ++
    [r.source, BitVec.ofNat 8 r.kind.code] ++ bytesOf 2 r.value.toNat

/-- The eight bytes of the profile argument (R169, R173). -/
def Profile.bytes (p : Profile) : List Byte :=
  bytesOf 1 p.slotCount ++ bytesOf 2 p.slotLength ++ bytesOf 1 p.window ++ bytesOf 1 p.correctionLimit ++
    bytesOf 1 p.exclusion ++ bytesOf 2 p.guard

/-- The profile signature (R173). -/
def Profile.signature (p : Profile) : Word16 := crc16 p.bytes

end Sys2Proof.Machine
end

