-- ==== Sys2Proof/Machine/MembershipOps.lean ====
section
/-! DEFINITION. The Membership Table's operations (chapter 4): the view, hearing, the departing drop, the view check,
the round-end evaluation, direct admission and the emptying of the table. -/

namespace Sys2Proof.Machine

/-- A station number is in a set carried as sixteen bits, bit k for number k (R167). -/
def inSet (view : Word16) (n : StationNo) : Bool := view.getLsbD n.val

/-- The set of the station numbers that satisfy a test. -/
def setOf (test : StationNo → Bool) : Word16 :=
  allStations.foldl (fun v n => if test n then v ||| BitVec.twoPow 16 n.val else v) 0

/-- A peer held as MEMBER or MISSING is in the view (R58). -/
def PeerEntry.inView (p : PeerEntry) : Bool := p.state == .member || p.state == .missing

/-- A station number is in the own view: the own number, or a peer held as MEMBER or MISSING (R58). -/
def State.inView (s : State) (n : StationNo) : Bool := n == s.own || s.members.peers[n].inView

/-- The own view (R58). -/
def State.view (s : State) : Word16 := setOf s.inView

/-- The peers in the view. -/
def State.viewPeers (s : State) : List StationNo := allStations.filter fun n => n != s.own && s.inView n

/-- Replace one peer entry. -/
def Membership.setPeer (m : Membership) (p : StationNo) (e : PeerEntry) : Membership :=
  { m with peers := m.peers.set p e }

/-- Change every peer entry. -/
def Membership.mapPeers (m : Membership) (f : PeerEntry → PeerEntry) : Membership :=
  { m with peers := Vector.ofFn fun i => f m.peers[i] }

/-- Record what a BEACON said about its sender (R59). -/
def PeerEntry.note (e : PeerEntry) (f : Frame) : PeerEntry :=
  { e with lastRound := some f.round, lastView := some f.view, lastQuality := some f.quality }

/-- A BEACON's view disagrees with the receiver's table on one compared station number (R67). -/
def Membership.disagreesOn (m : Membership) (own : StationNo) (f : Frame) (x : StationNo) : Bool :=
  if x == own then m.grace == 0 && !inSet f.view x
  else if x == f.station then false
  else
    match m.peers[x].state with
    | .absent => inSet f.view x
    | .member => !inSet f.view x
    | .candidate | .missing => false

/-- The view check of a heard BEACON (R67). -/
def Membership.checkView (m : Membership) (own : StationNo) (f : Frame) : Membership :=
  if allStations.any (m.disagreesOn own f) then { m with disagree := countUp255 m.disagree }
  else { m with agree := countUp255 m.agree }

/-- Hear a peer in ACTIVE (R59). -/
def Membership.hear (m : Membership) (own : StationNo) (f : Frame) : Membership :=
  (m.setPeer f.station { m.peers[f.station].note f with heard := true }).checkView own f

/-- Drop a departing peer in ACTIVE (R60). -/
def Membership.dropDeparting (m : Membership) (f : Frame) : Membership :=
  m.setPeer f.station
    { m.peers[f.station].note f with state := .absent, heard := false, heardCount := 0, missCount := 0 }

/-- The Membership Table takes a valid frame (R59 to R62). In INTEGRATE a BEACON of the lead-in round that is not
departing leaves its sender's entry as it is: R61 says only that it sets no heard mark, and whether it updates what
was last heard (R57) is the model's choice (DESIGN CHOICE, log 29). -/
def membershipTakeFrame (f : Frame) (s : State) : State :=
  if f.kind == .startup || f.station == s.own then s
  else
    match s.ctrl.station with
    | .active =>
      if f.departing then
        raiseIf s.members.peers[f.station].inView .memberLoss (s.setMembers (s.members.dropDeparting f))
      else s.setMembers (s.members.hear s.own f)
    | .integrate =>
      let e := s.members.peers[f.station].note f
      if f.departing then s.setMembers (s.members.setPeer f.station e)
      else if s.ctrl.integration.map (·.1) == some f.round then
        s.setMembers (s.members.setPeer f.station { e with heard := true })
      else s
    | .config | .listen | .coldstart | .departed | .faulted => s

/-- The move of one peer entry at an evaluated round end, with exclusion threshold x (R64); the heard mark is
cleared (R63). -/
def PeerEntry.evaluate (x : Nat) (e : PeerEntry) : PeerEntry :=
  match e.state, e.heard with
  | .absent, true => { e with state := .candidate, heardCount := 1, heard := false }
  | .absent, false => e
  | .candidate, true => { e with state := .member, heardCount := 2, heard := false }
  | .candidate, false => { e with state := .absent, heardCount := 0 }
  | .member, true => { e with missCount := 0, heard := false }
  | .member, false =>
    if x = 1 then { e with state := .absent, heardCount := 0 } else { e with state := .missing, missCount := 1 }
  | .missing, true => { e with state := .member, missCount := 0, heard := false }
  | .missing, false =>
    if e.missCount + 1 = x then { e with state := .absent, heardCount := 0, missCount := 0 }
    else { e with missCount := e.missCount + 1 }

/-- The evaluation moves a peer from CANDIDATE to MEMBER (R65). -/
def PeerEntry.joins (x : Nat) (e : PeerEntry) : Bool :=
  e.state == .candidate && (e.evaluate x).state == .member

/-- The evaluation moves a peer from MEMBER or MISSING to ABSENT (R65). -/
def PeerEntry.lost (x : Nat) (e : PeerEntry) : Bool := e.inView && (e.evaluate x).state == .absent

/-- The round's view check fails (R68). -/
def Membership.checkFails (m : Membership) : Bool := decide (m.agree < m.disagree)

/-- The round-end evaluation as one act (R63). -/
def Membership.evaluate (x : Nat) (m : Membership) : Membership :=
  { m.mapPeers (·.evaluate x) with agree := 0, disagree := 0, grace := m.grace - 1 }

/-- The Membership Table evaluates the round end at this boundary: in ACTIVE, but not at the entry boundary
(R63). -/
def State.evaluatesAt (s : State) (b : SlotStart) : Bool :=
  s.ctrl.station == .active && s.members.entryBoundary != some b

/-- The Membership Table takes a round end (R63 to R65); a view-check failure is reported by `checkFails` of the
table before it. -/
def membershipRoundEnd (b : SlotStart) (s : State) : State :=
  if s.evaluatesAt b then
    let x := s.settings.profile.exclusion
    let some_ (test : PeerEntry → Bool) := allStations.any fun n => test s.members.peers[n]
    raiseIf (some_ (·.lost x)) .memberLoss
      (raiseIf (some_ (·.joins x)) .memberJoin (s.setMembers (s.members.evaluate x)))
  else s

/-- Direct admission of one peer at the end of a successful integration (R66). -/
def PeerEntry.admitHeard (e : PeerEntry) : PeerEntry :=
  if e.heard then { e with state := .member, heardCount := 2, missCount := 0, heard := false } else e

/-- Prepare the table at an entry to ACTIVE (R70), with the direct admission of R66 from INTEGRATE. -/
def membershipEnterActive (fromIntegrate : Bool) (b : SlotStart) (s : State) : State :=
  let m := if fromIntegrate then s.members.mapPeers PeerEntry.admitHeard else s.members
  raiseIf (fromIntegrate && allStations.any fun n => s.members.peers[n].heard) .memberJoin
    (s.setMembers { m with grace := 3, agree := 0, disagree := 0, entryBoundary := some b })

/-- An entry emptied: ABSENT, with what was last heard kept (R71). -/
def PeerEntry.emptied (e : PeerEntry) : PeerEntry :=
  { e with state := .absent, heard := false, heardCount := 0, missCount := 0 }

/-- Empty the table (R71, R72). -/
def Membership.emptied (m : Membership) : Membership :=
  { m.mapPeers PeerEntry.emptied with agree := 0, disagree := 0, grace := 0, entryBoundary := none }

end Sys2Proof.Machine
end

