-- ==== Sys2Proof/Machine/QueueOps.lean ====
section
/-! DEFINITION. The Outbound Queue's operations (chapter 6) and the loss of records that meet a full queue (section
5.8): entering the queue, acknowledgement, removal, and what a BEACON takes from the queue. -/

namespace Sys2Proof.Machine

/-- A record as the Capture Unit hands it over (R81, R84, R85, R87, R89). -/
structure Draft where
  stamp : Stamp
  source : Byte
  kind : RecordKind
  value : Word16
deriving DecidableEq, Repr

/-- The queued record a draft becomes (R94, R95). -/
def State.queuedRecord (s : State) (d : Draft) : QueuedRecord :=
  { sequence := s.queue.nextSequence, session := s.ctrl.session, time := d.stamp.time, source := d.source
    kind := d.kind, value := d.value, quality := d.stamp.quality, announced := false }

/-- The copy of a draft for the local Journal (R95, R122). -/
def State.journalCopy (s : State) (d : Draft) : JournalRecord :=
  { origin := s.own, session := s.ctrl.session, sequence := s.queue.nextSequence, time := d.stamp.time
    source := d.source, kind := d.kind, value := d.value, quality := d.stamp.quality, late := false
    forced := false, awaiting := s.ctrl.session.isNone }

/-- Enqueue a record: it takes the next sequence and the current session, joins the tail, and is copied into the
local Journal in the same act (R95). -/
def enqueue (d : Draft) (s : State) : State :=
  journalInsert (s.journalCopy d)
    (s.setQueue { s.queue with
      records := s.queue.records ++ [s.queuedRecord d]
      nextSequence := s.queue.nextSequence + 1 })

/-- The queue has no place for a new record: it holds 32, or a capture loss is pending (R87, R88). -/
def State.queueClosed (s : State) : Bool :=
  decide (32 ≤ s.queue.records.length) || s.capture.pendingLoss.isSome

/-- The pending-loss record after one more loss (R88). -/
def PendingLoss.after (d : Draft) : Option PendingLoss → PendingLoss
  | none => { first := d.stamp, count := 1 }
  | some l => { l with count := countUp l.count 1 }

/-- Lose a record made from an input: count it, and raise CAPTURE_LOSS when a pending loss begins (R88, R180). -/
def loseRecord (d : Draft) (s : State) : State :=
  raiseIf s.capture.pendingLoss.isNone .captureLoss
    ((s.setQueue { s.queue with captureLost := countUp s.queue.captureLost 1 }).setCapture
      { s.capture with pendingLoss := some (PendingLoss.after d s.capture.pendingLoss) })

/-- Hand a record made from an input to the Outbound Queue, which takes it or loses it (R86, R88, R95). -/
def handOver (d : Draft) (s : State) : State := if s.queueClosed then loseRecord d s else enqueue d s

/-- The CAPTURE_LOST record of a pending loss (R89). -/
def PendingLoss.draft (l : PendingLoss) : Draft :=
  { stamp := l.first, source := 9, kind := .captureLost, value := BitVec.ofNat 16 l.count }

/-- Write a pending loss into the queue (R89). -/
def writePendingLoss (s : State) : State :=
  match s.capture.pendingLoss with
  | none => s
  | some l => enqueue l.draft (s.setCapture { s.capture with pendingLoss := none })

/-- Remove the records at the head that satisfy a test, up to the first that does not; where at least one goes, a
pending loss is written in the same act (R89, R102). -/
def removeWhile (test : QueuedRecord → Bool) (s : State) : State :=
  let rest := s.queue.records.dropWhile test
  let s' := s.setQueue { s.queue with records := rest }
  if rest.length < s.queue.records.length then writePendingLoss s' else s'

/-- Every peer in the view has an acked-through that follows or equals the record's sequence (R102). -/
def State.ackedByView (s : State) (r : QueuedRecord) : Bool :=
  s.viewPeers.all fun p =>
    match s.queue.ackedThrough[p] with
    | some q => followsOrEqualsSeq q r.sequence
    | none => false

/-- Removal while the view holds at least one peer (R102). -/
def removeAcknowledged (s : State) : State :=
  if s.viewPeers.isEmpty then s else removeWhile s.ackedByView s

/-- The Outbound Queue takes a round end: in ACTIVE it removes what the view has acknowledged (R102), or, with
no peer in the view, the announced records at the head (R103). -/
def outboundRoundEnd (s : State) : State :=
  if s.ctrl.station = .active then
    if s.viewPeers.isEmpty then removeWhile (·.announced) s else removeAcknowledged s
  else s

/-- The frame's session differs from the stored session of its sender (R100). -/
def OutboundQueue.sessionChanged (q : OutboundQueue) (f : Frame) : Bool :=
  match q.peerSessions[f.station] with
  | some old => old != f.session
  | none => false

/-- A changed session of a peer clears its acked-through; the stored peer session takes the frame's (R100). -/
def OutboundQueue.notePeerSession (q : OutboundQueue) (f : Frame) : OutboundQueue :=
  { q with
    peerSessions := q.peerSessions.set f.station (some f.session)
    ackedThrough := if q.sessionChanged f then q.ackedThrough.set f.station none else q.ackedThrough }

/-- A vector entry updates a peer's acked-through (R101). -/
def OutboundQueue.acceptsAck (q : OutboundQueue) (session : Option Session) (p : StationNo) (r : Receipt) :
    Bool :=
  (match session with
    | some x => r.sessionByte == x.setWidth 8
    | none => false) &&
  (match q.issuedThrough with
    | some issued => followsOrEqualsSeq issued r.through
    | none => false) &&
  (match q.ackedThrough[p] with
    | some acked => followsOrEqualsSeq r.through acked
    | none => true)

/-- Take the acknowledgement a BEACON carries for the own station number (R101). -/
def OutboundQueue.takeAck (q : OutboundQueue) (session : Option Session) (own : StationNo) (f : Frame) :
    OutboundQueue :=
  match f.receipts[own] with
  | some r =>
    if q.acceptsAck session f.station r then
      { q with ackedThrough := q.ackedThrough.set f.station (some r.through) }
    else q
  | none => q

/-- The Outbound Queue takes a valid frame (R100 to R103). -/
def outboundTakeFrame (f : Frame) (s : State) : State :=
  if f.kind == .startup || f.station == s.own then s
  else
    let s' := s.setQueue ((s.queue.notePeerSession f).takeAck s.ctrl.session s.own f)
    match s.ctrl.station with
    | .active => removeAcknowledged s'
    | .listen | .coldstart | .integrate => s'
    | .config | .departed | .faulted => s

/-! ## What a BEACON takes from the queue -/

/-- A queued record as a wire record (R97). -/
def QueuedRecord.wire (r : QueuedRecord) : WireRecord :=
  { sequence := r.sequence, time := r.time, source := r.source, kind := r.kind, quality := r.quality
    value := r.value }

/-- The records a BEACON announces: the oldest, up to four (R97). -/
def OutboundQueue.selected (q : OutboundQueue) : List QueuedRecord := q.records.take 4

/-- Issued-through after a BEACON with these records (R98). -/
def OutboundQueue.raisedIssued (q : OutboundQueue) : Option Sequence :=
  match q.selected.getLast?, q.issuedThrough with
  | none, issued => issued
  | some r, none => some r.sequence
  | some r, some issued => if followsSeq r.sequence issued then some r.sequence else some issued

/-- The queue after the selection of a BEACON: marks set and issued-through raised (R97, R98). -/
def OutboundQueue.announce (q : OutboundQueue) : OutboundQueue :=
  { q with
    records := (q.selected.map fun r => { r with announced := true }) ++ q.records.drop 4
    issuedThrough := q.raisedIssued }

/-- The earliest timestamp among queued records not announced yet (R99). -/
def OutboundQueue.earliestUnannounced (q : OutboundQueue) : Option CommonTime :=
  (q.records.filter fun r => !r.announced).foldl
    (fun acc r => some (match acc with | none => r.time | some t => t.earliest r.time)) none

/-- Queued records without a session take it (R96). -/
def OutboundQueue.takeSession (q : OutboundQueue) (session : Session) : OutboundQueue :=
  { q with records := q.records.map fun r => { r with session := some (r.session.getD session) } }

/-- Discard the queue at an entry to DEPARTED, counting the records as abandoned (R106). -/
def OutboundQueue.discard (q : OutboundQueue) : OutboundQueue :=
  { q with records := [], abandoned := countUp q.abandoned q.records.length }

/-- The queue at REJOIN: empty, numbering from 0, issued-through and acked-through none, peer sessions kept
(R38, R108). -/
def OutboundQueue.rejoin (q : OutboundQueue) : OutboundQueue :=
  { q with records := [], nextSequence := 0, issuedThrough := none, ackedThrough := Vector.replicate 16 none }

end Sys2Proof.Machine
end

