-- ==== Sys2Proof/Machine/CaptureOps.lean ====
section
/-! DEFINITION. The Capture Unit's operations (chapter 5): trackers, the chatter overlay, the records of one sample
event, and the own watermark. -/

namespace Sys2Proof.Machine

/-- The Capture Unit produces records (R82). -/
def State.producing (s : State) : Bool :=
  s.holdsTime && !s.ctrl.leavePending

/-- A tracker takes a sample of `level` stamped `stamp`, with debounce count D; where it accepts a change, the
stamp that dates it and the new level (R78 to R80). -/
def TrackerState.sample (debounce : Nat) (stamp : Stamp) (level : Bool) :
    TrackerState → TrackerState × Option (Stamp × Bool)
  | .unset runLevel runCount =>
    let count := if runLevel = some level then runCount + 1 else 1
    if debounce ≤ count then (.stable level, none) else (.unset (some level) count, none)
  | .stable stableLevel =>
    if level = stableLevel then (.stable stableLevel, none)
    else if debounce ≤ 1 then (.stable level, some (stamp, level))
    else (.candidate stableLevel 1 stamp, none)
  | .candidate stableLevel count first =>
    if level = stableLevel then (.stable stableLevel, none)
    else if debounce ≤ count + 1 then (.stable level, some (first, level))
    else (.candidate stableLevel (count + 1) first, none)

/-- The stable level of a tracker; none in UNSET (R75). -/
def TrackerState.stableLevel : TrackerState → Option Bool
  | .unset _ _ => none
  | .stable level => some level
  | .candidate level _ _ => some level

/-- The edge setting selects a change to this level (R81). -/
def Edge.selects (e : Edge) (level : Bool) : Bool :=
  match e with
  | .off => false
  | .rise => level
  | .fall => !level
  | .both => true

/-- The chatter overlay applies: C of 2 to 255 and an edge setting other than NONE (R83). -/
def InputSettings.overlaid (c : InputSettings) : Bool := decide (2 ≤ c.chatter) && c.edge != .off

/-- The value that carries a level: 0 for low and 1 for high (R84, R85). -/
def levelValue (level : Bool) : Word16 := if level then 1 else 0

/-- What an input makes of one accepted change: the record, where one is made (R81, R84). -/
def changeDraft (c : InputSettings) (producing chattering starts : Bool) (source : InputNo) (first : Stamp)
    (level : Bool) : Option Draft :=
  if !producing || first.quality == .noTime then none
  else if starts then
    some { stamp := first, source := BitVec.ofNat 8 source.val, kind := .chatterOn, value := levelValue level }
  else if !chattering && c.edge.selects level then
    some { stamp := first, source := BitVec.ofNat 8 source.val, kind := if level then .rise else .fall, value := 0 }
  else none

/-- An input takes a sample: the tracker, the window count, the start of chattering, and the record of an
accepted change (R78 to R84). -/
def Tracker.sample (c : InputSettings) (producing : Bool) (stamp : Stamp) (source : InputNo) (level : Bool)
    (t : Tracker) : Tracker × Option Draft :=
  let (state, accepted) := t.state.sample c.debounce stamp level
  match accepted with
  | none => ({ t with state := state }, none)
  | some (first, newLevel) =>
    let count := countUp255 t.windowCount
    let starts := c.overlaid && !t.chattering && decide (count = c.chatter)
    ({ state := state, windowCount := count, chattering := t.chattering || starts },
      changeDraft c producing t.chattering starts source first newLevel)

/-- An input at the end of a window: a chattering input that counted no change stops chattering, with a
CHATTER_OFF record where one is made; the window count returns to 0 (R85). -/
def Tracker.endWindow (c : InputSettings) (producing : Bool) (stamp : Stamp) (source : InputNo) (t : Tracker) :
    Tracker × Option Draft :=
  let stops := c.overlaid && t.chattering && t.windowCount == 0
  ({ t with windowCount := 0, chattering := t.chattering && !stops },
    if stops && producing && stamp.quality != .noTime then
      some { stamp := stamp, source := BitVec.ofNat 8 source.val, kind := .chatterOff
             value := levelValue (t.state.stableLevel.getD false) }
    else none)

/-- The level a tracker sees: the pin's, inverted where the input's invert setting is yes (R76). -/
def InputSettings.seen (c : InputSettings) (pin : Bool) : Bool := pin != c.invert

/-- An input takes one sample event, which ends the window where `ends` holds; it makes at most one record (R86). -/
def State.sampleInput (s : State) (ends : Bool) (levels : BitVec 8) (i : InputNo) : Tracker × Option Draft :=
  let c := s.settings.inputs[i]
  let (t, draft) := s.capture.trackers[i].sample c s.producing s.stampNow i (c.seen (levels.getLsbD i.val))
  if ends then
    let (t', off) := t.endWindow c s.producing s.stampNow i
    (t', draft.or off)
  else (t, draft)

/-- This sample event brings the window counter to 10,000 (R76). -/
def State.endsWindow (s : State) : Bool := decide (10000 ≤ s.capture.windowCounter + 1)

/-- The records one sample event makes, in input order (R86). -/
def State.sampleDrafts (s : State) (levels : BitVec 8) : List Draft :=
  allInputs.filterMap fun i => (s.sampleInput s.endsWindow levels i).2

/-- A sample event: every input takes its level, the window may end, the next sample is 100 µs away, and the
records are handed to the Outbound Queue in input order (R76, R85, R86). -/
def takeSample (levels : BitVec 8) (s : State) : State :=
  (s.sampleDrafts levels).foldl (fun s d => handOver d s)
    (s.setCapture { s.capture with
      trackers := Vector.ofFn fun i => (s.sampleInput s.endsWindow levels i).1
      windowCounter := if s.endsWindow then 0 else s.capture.windowCounter + 1
      untilSample := some 100 })

/-- The stamp of a candidate that holds the own watermark back (R91). -/
def State.candidateTime (s : State) (i : InputNo) : Option CommonTime :=
  match s.capture.trackers[i].state with
  | .candidate _ _ first => if s.settings.inputs[i].edge == .off then none else some first.time
  | .unset _ _ | .stable _ => none

/-- The own watermark: the earliest of common time, each such candidate's stamp minus 1 µs, and a pending loss's
first-lost stamp minus 1 µs (R91). -/
def State.ownWatermark (s : State) : CommonTime :=
  let terms := allInputs.filterMap s.candidateTime ++ (s.capture.pendingLoss.map (·.first.time)).toList
  terms.foldl (fun acc t => acc.earliest (s.justBefore t)) s.commonTime

/-- Sampling begins at START: the first sample event is 100 µs away (R76, R92). -/
def CaptureUnit.begin (_ : CaptureUnit) : CaptureUnit := { CaptureUnit.reset with untilSample := some 100 }

/-- The Capture Unit at REJOIN: trackers UNSET, window counts and flags clear, pending loss cleared; sampling and
the window counter go on (R92). -/
def CaptureUnit.rejoin (c : CaptureUnit) : CaptureUnit :=
  { c with trackers := Vector.replicate 8 .reset, pendingLoss := none }

end Sys2Proof.Machine
end

