-- ==== Sys2Proof/Machine/ReceiptOps.lean ====
section
/-! DEFINITION. The Receipt Unit's processing of one BEACON (chapter 7): the session step, the staleness check, the
announcements, the empty-beacon step, and the issued-through and watermark step (R111 to R118). -/

namespace Sys2Proof.Machine

/-- An entry with received-through, issued-through and accepted watermark none (R112, R113). -/
def ReceiptEntry.cleared (e : ReceiptEntry) : ReceiptEntry :=
  { e with receivedThrough := none, issuedThrough := none, watermark := none }

/-- The session step (R112). -/
def ReceiptEntry.sessionStep (e : ReceiptEntry) (session : Session) : ReceiptEntry :=
  match e.knownSession with
  | some known => if known = session then e else { e.cleared with knownSession := some session }
  | none => { e with knownSession := some session }

/-- A stale entry (R113). -/
def ReceiptEntry.isStale (e : ReceiptEntry) (issued : Option Sequence) : Bool :=
  match e.receivedThrough, issued with
  | some _, none => true
  | some r, some i => !followsOrEqualsSeq i r
  | none, _ => false

/-- The record an accepted announcement becomes (R116). -/
def WireRecord.complete (w : WireRecord) (f : Frame) : JournalRecord :=
  { origin := f.station, session := some f.session, sequence := w.sequence, time := w.time, source := w.source
    kind := w.kind, value := w.value, quality := w.quality, late := false, forced := false
    awaiting := false }

/-- Class of an announcement (R114); baseline counts as next, both being accepted. -/
inductive AnnouncementClass where
  | accepted
  | duplicate
  | gap
deriving DecidableEq, Repr

/-- Classify a sequence against received-through (R114). -/
def classify (received : Option Sequence) (a : Sequence) : AnnouncementClass :=
  match received with
  | none => .accepted
  | some r => if a = r + 1 then .accepted else if followsSeq a r then .gap else .duplicate

/-- Replace the receipt entry of an origin. -/
def State.setReceipt (s : State) (o : StationNo) (e : ReceiptEntry) : State :=
  s.setReceipts { s.receipts with entries := s.receipts.entries.set o e }

/-- Set received-through of an origin. -/
def State.setReceived (s : State) (o : StationNo) (q : Option Sequence) : State :=
  s.setReceipt o { s.receipts.entries[o] with receivedThrough := q }

/-- Increase the gap counter by n. -/
def countGaps (n : Nat) (s : State) : State :=
  s.setReceipts { s.receipts with gaps := countUp s.receipts.gaps n }

/-- Accept an announcement: insert the record and advance received-through (R116). -/
def acceptAnnouncement (f : Frame) (w : WireRecord) (s : State) : State :=
  (journalInsert (w.complete f) s).setReceived f.station (some w.sequence)

/-- The announcements of a frame, one by one (R114, R115). At a gap of a frame whose view holds the own number,
it and all later ones are discarded as gaps and received-through ends just below it; what the frame had accepted
before it stays inserted (DESIGN CHOICE, log 30: with consecutive sequences a gap follows no accepted one). -/
def takeAnnouncements (f : Frame) : List WireRecord → State → State
  | [], s => s
  | w :: ws, s =>
    match classify s.receipts.entries[f.station].receivedThrough w.sequence with
    | .accepted => takeAnnouncements f ws (acceptAnnouncement f w s)
    | .duplicate =>
      takeAnnouncements f ws
        (s.setReceipts { s.receipts with duplicates := countUp s.receipts.duplicates 1 })
    | .gap =>
      if inSet f.view s.own then
        (countGaps (ws.length + 1) s).setReceived f.station (some (w.sequence - 1))
      else takeAnnouncements f ws (acceptAnnouncement f w (countGaps 1 s))

/-- The session step and the staleness check (R112, R113). -/
def receiptOpening (f : Frame) (s : State) : State :=
  let e := s.receipts.entries[f.station].sessionStep f.session
  if e.isStale f.issuedThrough then countGaps 1 (s.setReceipt f.station e.cleared)
  else s.setReceipt f.station e

/-- The empty-beacon step (R117). -/
def emptyBeaconStep (f : Frame) (s : State) : State :=
  match f.issuedThrough, s.receipts.entries[f.station].receivedThrough with
  | none, _ => s
  | some i, none => s.setReceived f.station (some i)
  | some i, some r => if followsSeq i r then countGaps 1 (s.setReceived f.station (some i)) else s

/-- The frame's watermark is accepted (R118). -/
def ReceiptEntry.acceptsWatermark (e : ReceiptEntry) (issued : Option Sequence) (w : CommonTime) : Bool :=
  e.receivedThrough == issued &&
    match e.watermark with
    | none => true
    | some old => old.earlier w

/-- The issued-through and watermark step (R118). -/
def ReceiptEntry.close (e : ReceiptEntry) (f : Frame) : ReceiptEntry :=
  { e with
    issuedThrough := f.issuedThrough
    watermark :=
      match f.watermark with
      | some w => if e.acceptsWatermark f.issuedThrough w then some w else e.watermark
      | none => e.watermark }

/-- Process one BEACON, as one act (R111). -/
def processBeacon (f : Frame) (s : State) : State :=
  let opened := receiptOpening f s
  let taken :=
    if f.announcements.isEmpty then emptyBeaconStep f opened else takeAnnouncements f f.announcements opened
  taken.setReceipt f.station (taken.receipts.entries[f.station].close f)

/-- The Receipt Unit takes a valid frame: a BEACON of another station in ACTIVE or INTEGRATE, and the integrating
frame in any case (R111). -/
def receiptTakeFrame (integrating : Bool) (f : Frame) (s : State) : State :=
  if f.kind == .beacon && f.station != s.own &&
      (s.ctrl.station == .active || s.ctrl.station == .integrate || integrating) then
    processBeacon f s
  else s

/-- The receipt vector of an own BEACON (R119). -/
def State.receiptVector (s : State) : Vector (Option Receipt) 16 :=
  Vector.ofFn fun k =>
    if k = s.own then none
    else
      s.receipts.entries[k].receivedThrough.map fun q =>
        { sessionByte := (s.receipts.entries[k].knownSession.getD 0).setWidth 8, through := q }

end Sys2Proof.Machine
end

