-- ==== Sys2Proof/Machine/TimeOps.lean ====
section
/-! DEFINITION. The Time Unit's operations (chapter 3): the slot test's measure, deviations, the round-end correction
and the time quality. -/

namespace Sys2Proof.Machine

/-- The expected SOF mark of a frame from station p as a count within the round: p × L + 20 (R2, R12). -/
def Profile.sofOffset (p : Profile) (station : StationNo) : Nat := station.val * p.slotLength + 20

/-- The stamped SOF mark minus the nearest of the instants (r, p × L + 20), in µs (R12, R46). -/
def Profile.deviation (p : Profile) (station : StationNo) (sof : CommonTime) : Int :=
  let rl : Int := p.roundLength
  let a := ((sof.offset : Int) - p.sofOffset station) % rl
  if 2 * a < rl then a else a - rl

/-- The round in which the receiver's common time places the frame's slot (R12). -/
def Profile.slotRound (p : Profile) (station : StationNo) (sof : CommonTime) : Round :=
  BitVec.ofInt 40 (((sof.count p.roundLength : Int) - p.deviation station sof) / (p.roundLength : Int))

/-- A frame does not lie in the slot its station number names (R12). -/
def Profile.offSlot (p : Profile) (f : Frame) (sof : CommonTime) : Bool :=
  decide (p.slotCount ≤ f.station.val) || f.round != p.slotRound f.station sof ||
    decide (p.window < (p.deviation f.station sof).natAbs)

/-- A frame of quality SOUND or SOLE (R22, R45). -/
def Quality.vouched (q : Quality) : Bool := q == .sound || q == .sole

/-- The Time Unit measures this valid frame (R45). The own number is never measured: the list has at most one
entry for each number other than the own (R46; DEDUCED, log 22). -/
def State.measures (s : State) (f : Frame) : Bool :=
  f.kind == .beacon && !f.departing && f.quality.vouched && f.station != s.own &&
    match s.ctrl.station with
    | .active => s.members.peers[f.station].state == .member
    | .integrate => s.ctrl.integration.map (·.1) == some f.round
    | .config | .listen | .coldstart | .departed | .faulted => false

/-- The Time Unit takes a valid frame: a measured one enters the deviation list unless its sender is in it (R46). -/
def timeTakeFrame (f : Frame) (sof : CommonTime) (s : State) : State :=
  if s.measures f && !(s.time.deviations.any fun d => d.1 == f.station) then
    s.setTime { s.time with
      deviations := s.time.deviations ++ [(f.station, s.settings.profile.deviation f.station sof)] }
  else s

/-! ## Round-end correction -/

/-- Enter a number in a rising list. -/
def insertRising (x : Int) : List Int → List Int
  | [] => [x]
  | y :: ys => if x ≤ y then x :: y :: ys else y :: insertRising x ys

/-- A list in rising order. -/
def rising : List Int → List Int
  | [] => []
  | x :: xs => insertRising x (rising xs)

/-- How many deviations are trimmed at each end of a list of n (R47). -/
def trimmedAtEachEnd (n : Nat) : Nat := if n ≤ 2 then 0 else if n ≤ 6 then 1 else 2

/-- The deviations kept, in rising order (R47). -/
def keptDeviations (ds : List Int) : List Int :=
  let k := trimmedAtEachEnd ds.length
  ((rising ds).drop k).take (ds.length - 2 * k)

/-- The midpoint: half the sum of the greatest and the least kept deviation, truncated toward zero; none for an
empty list (R47). -/
def midpoint (ds : List Int) : Option Int :=
  match (keptDeviations ds).head?, (keptDeviations ds).getLast? with
  | some least, some greatest => some (Int.tdiv (greatest + least) 2)
  | _, _ => none

/-- A raw correction bounded by the correction limit (R48). -/
def boundedBy (limit : Nat) (raw : Int) : Int :=
  if (limit : Int) < raw then limit else if raw < -(limit : Int) then -(limit : Int) else raw

/-- What the Time Unit reports to the Station Controller at a round end (R48). -/
inductive CorrectionReport where
  | clamped
  | notClamped
  | noCorrection
deriving DecidableEq, Repr

/-- The record of a round end (R51). -/
def correctionRecord (limit : Nat) (ended : Round) (ds : List Int) : Correction :=
  match midpoint ds with
  | none => { round := ended, count := ds.length, midpoint := none, applied := none, clamped := false }
  | some m =>
    { round := ended, count := ds.length, midpoint := some m, applied := some (boundedBy limit (-m))
      clamped := boundedBy limit (-m) != -m }

/-- The report that goes with a record (R48). -/
def Correction.report (c : Correction) : CorrectionReport :=
  if c.applied.isNone then .noCorrection else if c.clamped then .clamped else .notClamped

/-- Apply a correction: a forward jump (R49), a hold (R50), or neither. -/
def TimeUnit.applyCorrection (t : TimeUnit) (c : Int) : TimeUnit :=
  if 0 < c then { t with correctionOffset := t.correctionOffset + c }
  else if c < 0 then { t with holdCount := c.natAbs }
  else t

/-- Correct at a round end: apply, record, and empty the deviation list (R47 to R51). -/
def TimeUnit.correct (t : TimeUnit) (limit : Nat) (ended : Round) : TimeUnit :=
  let c := correctionRecord limit ended (t.deviations.map (·.2))
  { t.applyCorrection (c.applied.getD 0) with deviations := [], lastCorrection := some c }

/-! ## Time quality -/

/-- The quality by station state and last-correction record, once the station has had time (R52). -/
def qualityBy (station : StationState) (record : Option Correction) : Quality :=
  match station, record with
  | .active, some c => if c.clamped then .suspect else if c.count = 0 then .sole else .sound
  | _, _ => .suspect

/-- Set the quality anew by R52; NONE stays until adoption or entry to COLDSTART. -/
def TimeUnit.requalify (station : StationState) (t : TimeUnit) : TimeUnit :=
  { t with quality := if t.quality = .noTime then .noTime else qualityBy station t.lastCorrection }

/-- The round end starts the integration round of a station in INTEGRATE, which makes no correction (R47, R51). -/
def State.startsIntegrationRound (s : State) (b : SlotStart) : Bool :=
  s.ctrl.station == .integrate && s.ctrl.integration.map (·.1) == some b.round

/-- The Time Unit takes the round end at the boundary b, and what it reports (R47 to R53); no round end is taken
while the slot timer is stopped (R51). The one that starts the integration round makes no correction and leaves the
record as it is (R51), and empties the deviation list as every round end does (R46). -/
def timeRoundEnd (b : SlotStart) (s : State) : State × Option CorrectionReport :=
  if s.ctrl.slotTimer.isNone then (s, none)
  else if s.startsIntegrationRound b then (s.setTime { s.time with deviations := [] }, some .noCorrection)
  else
    let t := (s.time.correct s.settings.profile.correctionLimit (b.round - 1)).requalify s.ctrl.station
    (holdPersistent (s.setTime t), t.lastCorrection.map (·.report))

/-- Common time is replaced at an entry to COLDSTART or INTEGRATE: the hold is abandoned, the list emptied, the
record none and the quality SUSPECT (R43, R44). -/
def TimeUnit.replace (t : TimeUnit) (count : Nat) : TimeUnit :=
  { t.moveTo count with holdCount := 0, deviations := [], lastCorrection := none, quality := .suspect }

end Sys2Proof.Machine
end

