-- ==== Sys2Proof/Machine/Ops.lean ====
section
/-! DEFINITION. The Station Controller's operations (chapter 2) and what the other blocks do in the same act: every
change of station state, the leave drain, transmitter orders, the settlement of a frame report, and the
acts of a slot boundary. -/

namespace Sys2Proof.Machine

/-! ## Orders of acts -/

/-- A list without the later occurrences of its entries. -/
def firstOccurrences {α : Type} [DecidableEq α] : List α → List α
  | [] => []
  | x :: xs => x :: (firstOccurrences xs).filter fun y => y ≠ x

/-- An order in which every one of `all` stands once: the given entries as given, then the missing ones (log 2). -/
def completeOrder {α : Type} [DecidableEq α] (all given : List α) : List α :=
  firstOccurrences (given ++ all)

/-- The acts of a slot boundary (R18). -/
def allBoundaryActs : List BoundaryAct :=
  [.controller, .timeUnit, .membership, .outbound, .journal, .correctionReport, .viewReport]

/-- The blocks a valid frame is handed to (R13). -/
def allFrameActs : List FrameAct := [.controller, .timeUnit, .membership, .outbound, .receipt]

/-! ## Changes of station state -/

/-- An order not yet begun is dropped; a frame already in SENDING is completed (R7, R17). -/
def Transmitter.withdraw : Transmitter → Transmitter
  | .ordered _ => .idle
  | .idle => .idle
  | .sendingPreamble o n => .sendingPreamble o n
  | .sendingBody o n => .sendingBody o n

/-- Every change of station state: the order not yet begun is withdrawn, the quality set anew, STATE_CHANGE set,
and the persistent causes held (R17, R52, R163, R178). -/
def changeStation (station : StationState) (s : State) : State :=
  holdPersistent (raise .stateChange { s with
    ctrl := { s.ctrl with station := station }
    line := { s.line with transmitter := s.line.transmitter.withdraw }
    time := s.time.requalify station })

/-- The full value of the listen timer: (2 × S + n) × L µs (R21). -/
def State.listenDuration (s : State) : Nat :=
  (2 * s.settings.profile.slotCount + s.own.val) * s.settings.profile.slotLength

/-- Enter LISTEN with a new episode (R21): the timer full and running, the restart count 0; the deviation list is
emptied (R46) and the Membership Table too (R71, R72). -/
def enterListen (s : State) : State :=
  changeStation .listen { s with
    ctrl := { s.ctrl with
      listenTimer := some s.listenDuration
      listenRestarts := 0
      contention := none
      integration := none }
    time := { s.time with deviations := [] }
    members := s.members.emptied }

/-- Reintegrate: leave ACTIVE for LISTEN; the runs become 0 and the departing order clear; session, leave-pending
flag and drain count are kept (R32). -/
def reintegrate (s : State) : State :=
  enterListen (s.setCtrl { s.ctrl with echoRun := 0, clampedRun := 0, departingOrder := false })

/-- What entry to DEPARTED (R37) and entry to FAULT (R33) share: timers stopped, records and leave state
cleared, list and table emptied, pending loss cleared (R90), final release (R137). -/
def retire (station : StationState) (s : State) : State :=
  changeStation station { s with
    ctrl := { s.ctrl with
      listenTimer := none
      contention := none
      integration := none
      leavePending := false
      drainCount := 0
      departingOrder := false
      echoRun := 0
      clampedRun := 0
      slotTimer := none }
    time := { s.time with deviations := [] }
    members := s.members.emptied
    capture := { s.capture with pendingLoss := none }
    journal := s.journal.finalRelease }

/-- Enter DEPARTED: as `retire`, and the queue is discarded (R37, R106). -/
def enterDeparted (s : State) : State := retire .departed (s.setQueue s.queue.discard)

/-- Enter FAULT: as `retire`, the queue kept (R33, R107); DUPLICATE is held from here on (R184). -/
def enterFault (s : State) : State := retire .faulted s

/-- Place a transmitter order (R7, R19): it replaces an order held; a frame in SENDING is not touched. -/
def placeOrder (o : TransmitOrder) (s : State) : State :=
  s.setLine { s.line with
    transmitter :=
      match s.line.transmitter with
      | .idle | .ordered _ => .ordered o
      | .sendingPreamble o' n => .sendingPreamble o' n
      | .sendingBody o' n => .sendingBody o' n }

/-- The slot timer starts or continues from the current common time (R18). -/
def restartSlotTimer (s : State) : State :=
  s.setCtrl { s.ctrl with slotTimer := some (slotStartAfter s.settings.profile s.commonTime) }

/-- The round R0 of a cold start (R23). -/
def State.coldstartRound (s : State) : Round :=
  if s.time.quality = .noTime then 0 else s.commonTime.round + 1

/-- Enter COLDSTART (R23, R43): common time becomes (R0, n × L), and the STARTUP of round R0 is ordered. -/
def enterColdstart (s : State) : State :=
  let p := s.settings.profile
  let r0 := s.coldstartRound
  let placed := s.setTime (s.time.replace (SlotStart.count p { round := r0, slot := s.own.val }))
  let timed := restartSlotTimer placed
  placeOrder { kind := .startup, departing := false, round := r0 }
    (changeStation .coldstart
      (timed.setCtrl { timed.ctrl with listenTimer := none, contention := some r0 }))

/-- The count of common time that is adopted from a frame: (R, p × L + 20) plus the local time elapsed since its
SOF mark (R44). -/
def State.adoptedCount (s : State) (f : Frame) (localAt : Nat) : Nat :=
  f.round.toNat * s.roundLength + s.settings.profile.sofOffset f.station + (s.time.localCounter - localAt)

/-- Enter INTEGRATE on a frame (R26, R44). -/
def enterIntegrate (f : Frame) (localAt : Nat) (s : State) : State :=
  let timed := restartSlotTimer (s.setTime (s.time.replace (s.adoptedCount f localAt)))
  changeStation .integrate
    (timed.setCtrl { timed.ctrl with
      listenTimer := none
      contention := none
      integration := some (f.round + 1, false) })

/-- The session at an entry to ACTIVE: the one held, else the low 16 bits of the current round, plus 1 if that
equals the last-used session (R28). -/
def State.sessionAtEntry (s : State) : Session :=
  match s.ctrl.session with
  | some x => x
  | none =>
    let x : Session := s.commonTime.round.setWidth 16
    if s.ctrl.lastUsedSession = some x then x + 1 else x

/-- Enter ACTIVE at a slot boundary (R28), from INTEGRATE or COLDSTART: session (R28, R96, R127), runs, table
(R66, R70). The order for the own slot is placed by `controllerBoundary`. -/
def enterActive (fromIntegrate : Bool) (b : SlotStart) (s : State) : State :=
  let x := s.sessionAtEntry
  membershipEnterActive fromIntegrate b
    (changeStation .active { s with
      ctrl := { s.ctrl with
        contention := none
        integration := none
        session := some x
        lastUsedSession := some x
        echoRun := 0
        clampedRun := 0 }
      queue := s.queue.takeSession x
      journal := s.journal.takeSession s.own x })

/-! ## Reports of received frames -/

/-- Line activity in LISTEN: below 8 restarts the listen timer is set back to its full value (R22). -/
def lineActivity (s : State) : State :=
  if s.ctrl.listenRestarts < 8 then
    s.setCtrl { s.ctrl with
      listenTimer := some s.listenDuration
      listenRestarts := s.ctrl.listenRestarts + 1 }
  else s

/-- A valid frame on which a station in LISTEN (R22) or COLDSTART (R24) integrates. -/
def State.integratesOn (s : State) (f : Frame) : Bool :=
  match s.ctrl.station with
  | .listen =>
    f.station != s.own && decide (f.station.val < s.settings.profile.slotCount) && !f.leavePending &&
      (f.kind == .startup || (!f.departing && f.quality.vouched))
  | .coldstart => decide (f.station < s.own)
  | .config | .integrate | .active | .departed | .faulted => false

/-- The Station Controller takes a valid frame (R22, R24, R27, R29, R33). -/
def controllerTakeFrame (f : Frame) (localAt : Nat) (s : State) : State :=
  let own := f.station == s.own
  match s.ctrl.station with
  | .listen =>
    if own then enterFault s else if s.integratesOn f then enterIntegrate f localAt s else lineActivity s
  | .coldstart =>
    if own then enterFault s else if s.integratesOn f then enterIntegrate f localAt s else s
  | .integrate =>
    if own then enterFault s
    else
      match f.kind, s.ctrl.integration with
      | .beacon, some (round, _) =>
        if s.commonTime.round = round then s.setCtrl { s.ctrl with integration := some (round, true) } else s
      | .beacon, none => s
      | .startup, _ => s
  | .active => if own then enterFault s else s
  | .config | .departed | .faulted => s

/-- The Station Controller takes the report of a garbled frame (R10, R22, R24). -/
def controllerTakeGarbled (s : State) : State :=
  match s.ctrl.station with
  | .listen => lineActivity s
  | .coldstart => enterListen s
  | .config | .integrate | .active | .departed | .faulted => s

/-- The Station Controller takes the report of a foreign frame (R11, R22). -/
def controllerTakeForeign (s : State) : State :=
  match s.ctrl.station with
  | .listen => lineActivity s
  | .config | .coldstart | .integrate | .active | .departed | .faulted => s

/-- The Station Controller takes an echo report (R8, R24, R30, R32). -/
def controllerTakeEcho (kind : FrameKind) (good : Bool) (s : State) : State :=
  match s.ctrl.station, kind, good with
  | .coldstart, .startup, false => enterListen s
  | .active, .beacon, true => s.setCtrl { s.ctrl with echoRun := 0 }
  | .active, .beacon, false =>
    if 3 ≤ s.ctrl.echoRun + 1 then reintegrate s
    else s.setCtrl { s.ctrl with echoRun := s.ctrl.echoRun + 1 }
  | _, _, _ => s

/-! ## Round ends and slot boundaries -/

/-- The leave drain at a round end (R35, R36). -/
def drainRoundEnd (s : State) : State :=
  if s.ctrl.leavePending then
    let count := min 8 (s.ctrl.drainCount + 1)
    let counted := s.setCtrl { s.ctrl with drainCount := count }
    match s.ctrl.station with
    | .active =>
      if s.queue.records.isEmpty || count == 8 then
        counted.setCtrl { counted.ctrl with departingOrder := true }
      else counted
    | .listen | .coldstart | .integrate => if count == 8 then enterDeparted counted else counted
    | .config | .departed | .faulted => s
  else s

/-- The contention period reaches the own slot's boundary in round R0 + 1 (R25). -/
def State.contentionEndsAt (s : State) (b : SlotStart) : Bool :=
  s.ctrl.station == .coldstart && b.slot == s.own.val && s.ctrl.contention.map (· + 1) == some b.round

/-- The round end that ends the integration round, with the beacon-heard flag (R27). -/
def State.integrationEndsAt (s : State) (b : SlotStart) : Option Bool :=
  if s.ctrl.station = .integrate && b.slot = 0 then
    match s.ctrl.integration with
    | some (round, heard) => if round + 1 = b.round then some heard else none
    | none => none
  else none

/-- The entry that the Station Controller makes at a boundary, and whether it is one to ACTIVE (R25, R27). -/
def controllerEntry (b : SlotStart) (s : State) : State × Bool :=
  if s.contentionEndsAt b then (enterActive false b s, true)
  else
    match s.integrationEndsAt b with
    | some true => (enterActive true b s, true)
    | some false => (enterListen s, false)
    | none => (s, false)

/-- The Station Controller takes a boundary: it settles an entry, then the drain (R36), then places the order for
the own slot (R19, R28). -/
def controllerBoundary (b : SlotStart) (s : State) : State :=
  let (entered, toActive) := controllerEntry b s
  let drained := if b.slot = 0 then drainRoundEnd entered else entered
  if drained.ctrl.station == .active && (toActive || b.slot == s.own.val) then
    placeOrder { kind := .beacon, departing := drained.ctrl.departingOrder, round := b.round } drained
  else drained

/-- The Station Controller takes the report of a correction (R31, R32, R48). -/
def takeCorrectionReport (r : CorrectionReport) (s : State) : State :=
  if s.ctrl.station = .active then
    match r with
    | .clamped =>
      if 3 ≤ s.ctrl.clampedRun + 1 then reintegrate s
      else s.setCtrl { s.ctrl with clampedRun := s.ctrl.clampedRun + 1 }
    | .notClamped | .noCorrection => s.setCtrl { s.ctrl with clampedRun := 0 }
  else s

/-- The Station Controller takes the report of a view-check failure (R32, R68). -/
def takeViewReport (s : State) : State := if s.ctrl.station = .active then reintegrate s else s

/-- The candidate of a release step: the earliest of the own watermark and the accepted watermarks of the peers
in the view, less G; none where a peer has none or the subtraction would borrow below round 0 (R129). -/
def State.releaseCandidate (s : State) : Option CommonTime :=
  (s.viewPeers.foldl
    (fun acc p =>
      match acc, s.receipts.entries[p].watermark with
      | some t, some w => some (t.earliest w)
      | _, _ => none)
    (some s.ownWatermark)).bind fun t => t.minus s.roundLength s.settings.profile.guard

/-- The Journal takes a boundary: a release step in ACTIVE (R129, R131). -/
def journalBoundary (s : State) : State :=
  if s.ctrl.station = .active then
    match s.releaseCandidate with
    | some candidate => s.setJournal (s.journal.releaseStep candidate)
    | none => s
  else s

/-- A boundary under way: the state, and the reports not taken yet. -/
structure BoundaryRun where
  state : State
  correction : Option CorrectionReport
  viewFailure : Bool

/-- One act of a boundary (R18). -/
def boundaryAct (b : SlotStart) (run : BoundaryRun) (act : BoundaryAct) : BoundaryRun :=
  match act with
  | .controller => { run with state := controllerBoundary b run.state }
  | .timeUnit =>
    if b.slot = 0 then
      let (s, report) := timeRoundEnd b run.state
      { run with state := s, correction := report }
    else run
  | .membership =>
    if b.slot = 0 then
      { run with
        state := membershipRoundEnd b run.state
        viewFailure := run.state.evaluatesAt b && run.state.members.checkFails }
    else run
  | .outbound => if b.slot = 0 then { run with state := outboundRoundEnd run.state } else run
  | .journal => { run with state := journalBoundary run.state }
  | .correctionReport =>
    match run.correction with
    | some r => { run with state := takeCorrectionReport r run.state, correction := none }
    | none => run
  | .viewReport =>
    if run.viewFailure then { run with state := takeViewReport run.state, viewFailure := false } else run

/-- The acts of a boundary in an order that holds each once. A report named before the act that makes it is
taken after all the acts (log 2). -/
def boundaryActs (order : List BoundaryAct) : List BoundaryAct :=
  completeOrder allBoundaryActs order ++ [.correctionReport, .viewReport]

/-- Take a slot boundary (R18): the slot timer moves on to the next slot start, and the acts follow in order. All of
them are taken before any other event, so that a reintegration among them withdraws the order for an own slot 0
although a jump of the same boundary may have passed its preamble start (R2; DESIGN CHOICE, log 28). -/
def takeBoundary (b : SlotStart) (order : List BoundaryAct) (s : State) : State :=
  ((boundaryActs order).foldl (boundaryAct b)
    { state := s.setCtrl { s.ctrl with slotTimer := some (SlotStart.next s.settings.profile b) }
      correction := none, viewFailure := false }).state

end Sys2Proof.Machine
end

