-- ==== Sys2Proof/Machine/HostPort.lean ====
section
/-! DEFINITION. The Host Port (chapter 9): the answer of every host command, the taking of a command, the bit on SDO,
and the end of a transaction. -/

namespace Sys2Proof.Machine

/-- What a command answers: a status and, with OK, the response bytes (R147, R150). -/
structure Answer where
  status : Status
  response : List Byte
deriving DecidableEq, Repr

/-- A status byte alone. -/
def Answer.only (status : Status) : Answer := { status := status, response := [] }

/-- Number of argument bytes of a command code; none where the code names no command (R169). -/
def argumentBytes (code : Byte) : Option Nat :=
  match code.toNat with
  | 0x01 | 0x02 | 0x03 | 0x05 | 0x10 | 0x11 | 0x31 | 0x50 | 0x51 | 0x52 => some 0
  | 0x04 => some 1
  | 0x20 | 0x30 => some 2
  | 0x41 => some 4
  | 0x40 => some 8
  | _ => none

/-- A bit of a flags byte. -/
def flagBit (n : Nat) (b : Bool) : Nat := if b then 2 ^ n else 0

/-! ## Reading commands (section 9.2) -/

/-- GET_STATUS response, 11 bytes (R151, R169). -/
def State.statusBytes (s : State) : List Byte :=
  bytesOf 1 s.ctrl.station.code ++
    bytesOf 1 (s.time.quality.code + flagBit 2 s.ctrl.leavePending + flagBit 3 s.ctrl.session.isSome) ++
    bytesOf 2 s.view.toNat ++ bytesOf 2 s.journal.released.length ++
    bytesOf 2 s.journal.unreleased.length ++ bytesOf 1 s.queue.records.length ++
    bytesOf 2 (s.ctrl.session.getD 0).toNat

/-- GET_STATUS (R151). -/
def getStatusCommand (s : State) : Answer × State := ({ status := .ok, response := s.statusBytes }, s)

/-- A signed byte in two's complement (R169). -/
def signedByte (n : Int) : Byte := BitVec.ofInt 8 n

/-- The nine bytes of the last-correction record (R169 "READ_TIME response"). -/
def correctionBytes : Option Correction → List Byte
  | none => List.replicate 9 0
  | some c =>
    bytesOf 1 (1 + flagBit 1 c.midpoint.isSome + flagBit 2 c.clamped) ++ bytesOf 5 c.round.toNat ++
      bytesOf 1 c.count ++ [signedByte (c.midpoint.getD 0), signedByte (c.applied.getD 0)]

/-- READ_TIME response, 17 bytes (R153, R169). -/
def State.timeBytes (s : State) : List Byte :=
  bytesOf 5 s.commonTime.round.toNat ++ bytesOf 2 s.commonTime.offset ++ bytesOf 1 s.time.quality.code ++
    correctionBytes s.time.lastCorrection

/-- READ_TIME (R55, R153). -/
def readTimeCommand (s : State) : Answer × State := ({ status := .ok, response := s.timeBytes }, s)

/-- READ_ATTENTION: the set as it stands; it is then emptied and each persistent cause that holds is added again
(R164). -/
def readAttentionCommand (s : State) : Answer × State :=
  ({ status := .ok, response := bytesOf 2 s.port.attention.toNat },
    holdPersistent (s.setPort { s.port with attention := 0 }))

/-- An item as a number of n bytes, 0 where it holds none (R169). -/
def itemBytes (n : Nat) (item : Option Nat) : List Byte := bytesOf n (item.getD 0)

/-- READ_PEER response, 28 bytes (R154, R169). -/
def peerBytes (number : StationNo) (e : PeerEntry) (r : ReceiptEntry) (acked : Option Sequence) : List Byte :=
  bytesOf 1 number.val ++ bytesOf 1 e.state.code ++ bytesOf 1 e.heardCount ++ bytesOf 1 e.missCount ++
    bytesOf 1 (flagBit 0 e.lastRound.isSome + flagBit 1 e.lastView.isSome + flagBit 2 e.lastQuality.isSome +
      flagBit 3 r.knownSession.isSome + flagBit 4 r.receivedThrough.isSome +
      flagBit 5 r.issuedThrough.isSome + flagBit 6 r.watermark.isSome + flagBit 7 acked.isSome) ++
    itemBytes 5 (e.lastRound.map (·.toNat)) ++ itemBytes 2 (e.lastView.map (·.toNat)) ++
    itemBytes 1 (e.lastQuality.map (·.code)) ++ itemBytes 2 (r.knownSession.map (·.toNat)) ++
    itemBytes 2 (r.receivedThrough.map (·.toNat)) ++ itemBytes 2 (r.issuedThrough.map (·.toNat)) ++
    itemBytes 5 (r.watermark.map (·.round.toNat)) ++ itemBytes 2 (r.watermark.map (·.offset)) ++
    itemBytes 2 (acked.map (·.toNat))

/-- READ_PEER: ARG above 15; the own number reads ABSENT and none (R74, R154). -/
def readPeerCommand (number : Byte) (s : State) : Answer × State :=
  if h : number.toNat < 16 then
    let n : StationNo := ⟨number.toNat, h⟩
    ({ status := .ok
       response :=
        if n = s.own then peerBytes n .reset .reset none
        else peerBytes n s.members.peers[n] s.receipts.entries[n] s.queue.ackedThrough[n] }, s)
  else (.only .arg, s)

/-- READ_COUNTS (R155, R169). -/
def readCountsCommand (s : State) : Answer × State :=
  ({ status := .ok, response := s.counters.flatMap (bytesOf 2) }, s)

/-- READ_RECORD: the head of the released part is copied and pinned, or EMPTY (R139, R152). -/
def readRecordCommand (s : State) : Answer × State :=
  match s.journal.released with
  | [] => (.only .empty, s)
  | head :: _ => ({ status := .ok, response := head.hostBytes }, s.setJournal { s.journal with pinned := true })

/-- PEEK_RECORD: the head is copied without pinning, or EMPTY (R141, R152). -/
def peekRecordCommand (s : State) : Answer × State :=
  match s.journal.released with
  | [] => (.only .empty, s)
  | head :: _ => ({ status := .ok, response := head.hostBytes }, s)

/-! ## Commands that act (sections 9.3 to 9.5) -/

/-- The HOST_MARK record of a tag (R87). -/
def State.hostMark (s : State) (tag : Word16) : Draft :=
  { stamp := s.stampNow, source := 8, kind := .hostMark, value := tag }

/-- INJECT (R87, R156): STATE where no records are produced, FULL where the queue is closed, else a HOST_MARK. -/
def injectCommand (tag : Word16) (s : State) : Answer × State :=
  if !s.producing then (.only .state, s)
  else if s.queueClosed then (.only .full, s)
  else (.only .ok, enqueue (s.hostMark tag) s)

/-- SET_MASK: ARG where a bit that stands for no cause is set (R165). -/
def setMaskCommand (causes : Word16) (s : State) : Answer × State :=
  if causes.toNat < 512 then (.only .ok, s.setPort { s.port with mask := causes.setWidth 9 })
  else (.only .arg, s)

/-- CLEAR_COUNTS (R157). -/
def clearCountsCommand (s : State) : Answer × State := (.only .ok, clearCounters s)

/-- Every field of a profile lies in its range, and CL is not above W (R171, R172). -/
def Profile.inRange (p : Profile) : Bool :=
  decide (4 ≤ p.slotCount) && decide (p.slotCount ≤ 16) &&
    decide (300 ≤ p.slotLength) && decide (p.slotLength ≤ 4000) && decide (p.slotLength % 50 = 0) &&
    decide (2 ≤ p.window) && decide (p.window ≤ 50) &&
    decide (1 ≤ p.correctionLimit) && decide (p.correctionLimit ≤ 20) &&
    decide (p.correctionLimit ≤ p.window) &&
    decide (1 ≤ p.exclusion) && decide (p.exclusion ≤ 8) && decide (p.guard ≤ 1000)

/-- WRITE_PROFILE (R161, R172): STATE outside CONFIG, ARG out of range, else the whole profile is replaced. -/
def writeProfileCommand (p : Profile) (s : State) : Answer × State :=
  if s.ctrl.station ≠ .config then (.only .state, s)
  else if p.inRange then (.only .ok, s.setSettings { s.settings with profile := p })
  else (.only .arg, s)

/-- The settings of an input are in range (R175). -/
def InputSettings.inRange (c : InputSettings) : Bool :=
  decide (1 ≤ c.debounce) && decide (c.debounce ≤ 64) && decide (c.chatter ≠ 1) && decide (c.chatter ≤ 255)

/-- The settings that the second to fourth argument bytes give (R169 "Input argument"). -/
def inputArgument (settings debounce chatter : Byte) : InputSettings :=
  { edge := edgeOfCode settings.toNat, invert := settings.getLsbD 7, debounce := debounce.toNat
    chatter := chatter.toNat }

/-- WRITE_INPUT (R162, R175): STATE outside CONFIG; ARG for an input above 7, a field out of range or an unused bit
set; else the four settings of the input are replaced. -/
def writeInputCommand (number settings debounce chatter : Byte) (s : State) : Answer × State :=
  if s.ctrl.station ≠ .config then (.only .state, s)
  else
    let c := inputArgument settings debounce chatter
    if h : number.toNat < 8 then
      if settings &&& 0x7C = 0 && c.inRange then
        (.only .ok, s.setSettings { s.settings with inputs := s.settings.inputs.set number.toNat c })
      else (.only .arg, s)
    else (.only .arg, s)

/-- START (R20, R158, R177): STATE outside CONFIG; CONFLICT for a station number at or above S; else the settings
freeze, the signature is computed, the receiver turns on, sampling begins and the station enters LISTEN. -/
def startCommand (s : State) : Answer × State :=
  if s.ctrl.station ≠ .config then (.only .state, s)
  else if s.settings.profile.slotCount ≤ s.own.val then (.only .conflict, s)
  else
    (.only .ok, enterListen { s with
      settings := { s.settings with frozen := true, signature := some s.settings.profile.signature }
      line := { s.line with receiverOn := true }
      capture := s.capture.begin })

/-- LEAVE (R34, R159). -/
def leaveCommand (s : State) : Answer × State :=
  if s.ctrl.leavePending then (.only .state, s)
  else
    match s.ctrl.station with
    | .active =>
      (.only .ok, s.setCtrl { s.ctrl with leavePending := true, drainCount := 0, departingOrder := false })
    | .listen | .coldstart | .integrate => (.only .ok, enterDeparted s)
    | .config | .departed | .faulted => (.only .state, s)

/-- What REJOIN resets beside the entry to LISTEN (R38, R90, R92, R108, R138). -/
def rejoinBlocks (s : State) : State :=
  { s with
    ctrl := { s.ctrl with session := none }
    capture := s.capture.rejoin
    queue := s.queue.rejoin
    journal := s.journal.rejoin }

/-- REJOIN (R38, R160): in DEPARTED the station enters LISTEN, and the slot timer resumes where it has time. -/
def rejoinCommand (s : State) : Answer × State :=
  if s.ctrl.station = .departed then
    let s' := enterListen (rejoinBlocks s)
    (.only .ok, if s'.time.quality = .noTime then s' else restartSlotTimer s')
  else (.only .state, s)

/-- A code that names no command: ARG (R150). -/
def unknownCommand (s : State) : Answer × State := (.only .arg, s)

/-! ## Transactions (section 9.1) -/

/-- The profile that eight argument bytes give (R169 "Profile argument"). -/
def profileArgument (args : List Byte) : Profile :=
  { slotCount := field args 0 1, slotLength := field args 1 2, window := field args 3 1
    correctionLimit := field args 4 1, exclusion := field args 5 1, guard := field args 6 2 }

/-- The command that a command byte and its arguments name (R169). -/
def commandOf (code : Byte) (args : List Byte) : State → Answer × State :=
  match code.toNat with
  | 0x01 => getStatusCommand
  | 0x02 => readTimeCommand
  | 0x03 => readAttentionCommand
  | 0x04 => readPeerCommand (args.getD 0 0)
  | 0x05 => readCountsCommand
  | 0x10 => readRecordCommand
  | 0x11 => peekRecordCommand
  | 0x20 => injectCommand (BitVec.ofNat 16 (field args 0 2))
  | 0x30 => setMaskCommand (BitVec.ofNat 16 (field args 0 2))
  | 0x31 => clearCountsCommand
  | 0x40 => writeProfileCommand (profileArgument args)
  | 0x41 => writeInputCommand (args.getD 0 0) (args.getD 1 0) (args.getD 2 0) (args.getD 3 0)
  | 0x50 => startCommand
  | 0x51 => leaveCommand
  | 0x52 => rejoinCommand
  | _ => unknownCommand

/-- The command of these bytes is taken: it is carried out, the status and the response enter the transfer
buffer and the port enters RESPONSE (R147, R150). -/
def answerWith (bytes : List Byte) (command : State → Answer × State) (s : State) : State :=
  let (answer, s') := command s
  s'.setPort { s'.port with
    transaction := .response
    received := bytes
    buffer := answer.status.code :: answer.response
    bytesSent := 0
    bitCount := 0
    shift := 0 }

/-- A command as a whole: it is taken only while the port is in COMMAND (R147, log 9). -/
def takeCommand (bytes : List Byte) (command : State → Answer × State) (s : State) : State :=
  if s.port.transaction = .command then answerWith bytes command s else s

/-- The bytes received make a whole command: a code with its argument bytes, or a code that names no command
(R147, R150). -/
def completeCommand : List Byte → Bool
  | [] => false
  | code :: args =>
    match argumentBytes code with
    | none => true
    | some n => args.length == n

/-- A whole byte has been clocked (R147): in COMMAND it is received, and the command is taken if it is complete;
in RESPONSE and DISCARD it counts as sent (log 13). -/
def clockByte (b : Byte) (s : State) : State :=
  match s.port.transaction with
  | .idle => s
  | .command =>
    let bytes := s.port.received ++ [b]
    let s' := s.setPort { s.port with received := bytes }
    if completeCommand bytes then answerWith bytes (commandOf (bytes.getD 0 0) bytes.tail) s' else s'
  | .response | .discard => s.setPort { s.port with bytesSent := s.port.bytesSent + 1 }

/-- A rising edge of SCK with a level on SDI: eight make one byte, most significant bit first (R147); without
select, or during a reset, the port ignores it. -/
def clockBit (sdi : Bool) (s : State) : State :=
  match s.port.transaction with
  | .idle => s
  | .command | .response | .discard =>
    let shift := (s.port.shift <<< 1) ||| (if sdi then 1 else 0)
    if 8 ≤ s.port.bitCount + 1 then clockByte shift (s.setPort { s.port with bitCount := 0, shift := 0 })
    else s.setPort { s.port with bitCount := s.port.bitCount + 1, shift := shift }

/-- SDO: high impedance (none) in IDLE, 1 in COMMAND and DISCARD, in RESPONSE the bits of the buffer, most
significant first, and 1 past its end (R147, R149). -/
def State.sdo (s : State) : Option Bool :=
  match s.port.transaction with
  | .idle => none
  | .command | .discard => some true
  | .response => some ((s.port.buffer.getD s.port.bytesSent 0xFF).getMsbD s.port.bitCount)

/-- The transaction in RESPONSE is a READ_RECORD with status OK (R148). -/
def HostPort.readingRecord (p : HostPort) : Bool :=
  p.transaction == .response && p.received.head? == some 0x10 && p.buffer.head? == some Status.ok.code

/-- The release of SELn ends the transaction (R140, R148). -/
def endTransaction (s : State) : State :=
  let journal :=
    if s.port.readingRecord then
      if 17 ≤ s.port.bytesSent then s.journal.completeRead else s.journal.abandonRead
    else s.journal
  { s with
    journal := journal
    port := { s.port with
      transaction := .idle
      received := if s.port.transaction = .command then [] else s.port.received
      timer := none
      bitCount := 0
      shift := 0 } }

/-- The expiry of the port timer in COMMAND or RESPONSE (R140, R149, R182). -/
def timeoutTransaction (s : State) : State :=
  raise .portTimeout { s with
    journal := if s.port.readingRecord then s.journal.abandonRead else s.journal
    port := { s.port with
      transaction := .discard
      received := if s.port.transaction = .command then [] else s.port.received
      timer := none } }

/-- The 250 ms of R149 in µs. -/
def portLimit : Nat := 250000

/-- Local time until the port timer expires; none where it is stopped or the port is in IDLE or DISCARD (R149). -/
def State.untilTimeout (s : State) : Option Nat :=
  match s.port.transaction with
  | .command | .response => s.port.timer.map (portLimit - ·)
  | .idle | .discard => none

end Sys2Proof.Machine
end

