-- ==== Sys2Proof/Machine/ActCommands.lean ====
section
/-! DEFINITION. The host commands that act, each taken whole (sections 9.3 to 9.5; log 9). -/

namespace Sys2Proof.Machine

/-- INJECT (R87, R156). -/
def execInject (tag : Word16) (s : State) : Host.Outcome State Fault Refusal :=
  .next (takeCommand (0x20 :: bytesOf 2 tag.toNat) (injectCommand tag) s)

/-- SET_MASK (R165). -/
def execSetMask (causes : Word16) (s : State) : Host.Outcome State Fault Refusal :=
  .next (takeCommand (0x30 :: bytesOf 2 causes.toNat) (setMaskCommand causes) s)

/-- CLEAR_COUNTS (R157). -/
def execClearCounts (s : State) : Host.Outcome State Fault Refusal :=
  .next (takeCommand [0x31] clearCountsCommand s)

/-- WRITE_PROFILE (R161, R172). -/
def execWriteProfile (slotCount : Byte) (slotLength : Word16) (window limit exclusion : Byte) (guard : Word16)
    (s : State) : Host.Outcome State Fault Refusal :=
  .next (takeCommand
    ([0x40, slotCount] ++ bytesOf 2 slotLength.toNat ++ [window, limit, exclusion] ++ bytesOf 2 guard.toNat)
    (writeProfileCommand
      { slotCount := slotCount.toNat, slotLength := slotLength.toNat, window := window.toNat
        correctionLimit := limit.toNat, exclusion := exclusion.toNat, guard := guard.toNat }) s)

/-- WRITE_INPUT (R162, R175). -/
def execWriteInput (number settings debounce chatter : Byte) (s : State) :
    Host.Outcome State Fault Refusal :=
  .next (takeCommand [0x41, number, settings, debounce, chatter]
    (writeInputCommand number settings debounce chatter) s)

/-- START (R20, R158). -/
def execStart (s : State) : Host.Outcome State Fault Refusal := .next (takeCommand [0x50] startCommand s)

/-- LEAVE (R34, R159). -/
def execLeave (s : State) : Host.Outcome State Fault Refusal := .next (takeCommand [0x51] leaveCommand s)

/-- REJOIN (R38, R160). -/
def execRejoin (s : State) : Host.Outcome State Fault Refusal := .next (takeCommand [0x52] rejoinCommand s)

/-- UNKNOWN_COMMAND_CODE (R150): a code that names no command is answered with ARG. A code that names one is no
such event (Sys2Proof/WellFormed.lean). -/
def execUnknownCommandCode (code : Byte) (s : State) : Host.Outcome State Fault Refusal :=
  .next (match argumentBytes code with
    | none => takeCommand [code] unknownCommand s
    | some _ => s)

end Sys2Proof.Machine
end

