-- ==== Sys2Proof/Machine/LineOps.lean ====
section
/-! DEFINITION. The Line Interface's operations (chapter 1): classification and hand-over of a received frame, and the
content of the frame the station sends. -/

namespace Sys2Proof.Machine

/-- The class of a received frame (R10 to R12); a valid one with its content, stamp and local counter. -/
inductive FrameClass where
  | garbled
  | foreign
  | offSlot
  | valid (content : Frame) (sof : CommonTime) (localAt : Nat)
deriving DecidableEq, Repr

/-- Classify the bytes that followed the SOF mark; without a SOF mark the frame is garbled (R9 to R12). -/
def State.classifyFrame (s : State) (bytes : List Byte) : FrameClass :=
  match s.line.receiver with
  | .idle | .preamble => .garbled
  | .frame sof localAt =>
    match readFrame s.roundLength bytes with
    | none => .garbled
    | some f =>
      if s.settings.signature ≠ some f.signature then .foreign
      else if s.holdsTime && s.settings.profile.offSlot f sof then .offSlot
      else .valid f sof localAt

/-- One block takes a valid frame (R13). -/
def frameAct (integrating : Bool) (f : Frame) (sof : CommonTime) (localAt : Nat) (s : State) : FrameAct → State
  | .controller => controllerTakeFrame f localAt s
  | .timeUnit => timeTakeFrame f sof s
  | .membership => membershipTakeFrame f s
  | .outbound => outboundTakeFrame f s
  | .receipt => receiptTakeFrame integrating f s

/-- Hand a valid frame to the five blocks, in an order (R13). -/
def handOverFrame (f : Frame) (sof : CommonTime) (localAt : Nat) (order : List FrameAct) (s : State) : State :=
  (completeOrder allFrameActs order).foldl (frameAct (s.integratesOn f) f sof localAt) s

/-- Count a classified frame and report it (R10, R11, R13, R14). -/
def settleFrame (order : List FrameAct) (c : FrameClass) (s : State) : State :=
  match c with
  | .garbled => controllerTakeGarbled (s.setLine { s.line with garbled := countUp s.line.garbled 1 })
  | .foreign => controllerTakeForeign (s.setLine { s.line with foreign := countUp s.line.foreign 1 })
  | .offSlot => s.setLine { s.line with offSlot := countUp s.line.offSlot 1 }
  | .valid f sof localAt =>
    handOverFrame f sof localAt order (s.setLine { s.line with valid := countUp s.line.valid 1 })

/-- The burst under way is taken as a frame: the receiver returns to IDLE and the frame is classified and settled
(R9). Without a burst under way nothing is taken. -/
def takeBurst (bytes : List Byte) (order : List FrameAct) (s : State) : State :=
  match s.line.receiver with
  | .idle => s
  | .preamble | .frame _ _ =>
    settleFrame order (s.classifyFrame bytes) (s.setLine { s.line with receiver := .idle })

/-! ## The own frame -/

/-- The content of a STARTUP (R4). -/
def State.startupFrame (s : State) : Frame :=
  { kind := .startup, station := s.own, signature := s.settings.signature.getD 0, session := 0
    round := s.commonTime.round, departing := false, leavePending := s.ctrl.leavePending
    quality := s.time.quality, view := setOf (· == s.own), issuedThrough := none, watermark := none
    receipts := Vector.replicate 16 none, announcements := [] }

/-- The watermark of a BEACON: the earlier of the own watermark and the earliest timestamp that stays unannounced
after this frame's selection, minus 1 µs (R99). -/
def State.beaconWatermark (s : State) : CommonTime :=
  match s.queue.announce.earliestUnannounced with
  | some t => s.ownWatermark.earliest (s.justBefore t)
  | none => s.ownWatermark

/-- The content of a BEACON (R4, R97 to R99, R119). -/
def State.beaconFrame (s : State) (departing : Bool) : Frame :=
  { kind := .beacon, station := s.own, signature := s.settings.signature.getD 0
    session := s.ctrl.session.getD 0, round := s.commonTime.round, departing := departing
    leavePending := s.ctrl.leavePending, quality := s.time.quality, view := s.view
    issuedThrough := s.queue.raisedIssued, watermark := some s.beaconWatermark
    receipts := s.receiptVector, announcements := s.queue.selected.map QueuedRecord.wire }

/-- The content that an order takes (R4). -/
def State.frameFor (s : State) (o : TransmitOrder) : Frame :=
  match o.kind with
  | .startup => s.startupFrame
  | .beacon => s.beaconFrame o.departing

/-- Local time from the SOF mark to the last CRC bit, in whole µs: 1.6 µs a byte (R2, R6). -/
def sendingTime (f : Frame) : Nat := (74 + 13 * f.announcements.length) * 16 / 10

/-- The SOF mark of an own frame: its content is taken, the queue's selection marked, and a departing BEACON of a
station in ACTIVE takes the station to DEPARTED (R4, R35, R97, R98). -/
def sendContent (o : TransmitOrder) (s : State) : State :=
  let f := s.frameFor o
  let queue := match o.kind with
    | .startup => s.queue
    | .beacon => s.queue.announce
  let sent := { s with
    queue := queue
    line := { s.line with
      transmitter := .sendingBody o (sendingTime f)
      echo := some (f.kind, preambleBytes ++ f.bytes) } }
  if o.kind == .beacon && o.departing && s.ctrl.station == .active then enterDeparted sent else sent

end Sys2Proof.Machine
end

