-- ==== Sys2Proof/Machine/LineEvents.lean ====
section
/-! DEFINITION. The events of the station line: BURST_BEGINS, SOF_MARK_RECEIVED, FRAME_TAKEN, PREAMBLE_START,
SOF_MARK_SENT, FRAME_SENT and ECHO_RESULT (R2, R4, R7 to R13). -/

namespace Sys2Proof.Machine

/-- The transmitter is SENDING (R7). -/
def Transmitter.isSending : Transmitter → Bool
  | .idle | .ordered _ => false
  | .sendingPreamble _ _ | .sendingBody _ _ => true

/-- BURST_BEGINS (R9): a receiver that is on and IDLE moves to PREAMBLE, unless the transmitter is SENDING, when
what is heard is echo (R8). -/
def execBurstBegins (s : State) : Host.Outcome State Fault Refusal :=
  .next
    (if s.line.receiverOn && s.line.receiver == .idle && !s.line.transmitter.isSending then
      s.setLine { s.line with receiver := .preamble }
    else s)

/-- SOF_MARK_RECEIVED (R9): the first sixteen bits of the burst form the preamble pattern, and the receiver moves
to FRAME with the stamp and the local counter; if they do not form it, it stays in PREAMBLE. -/
def execSofMarkReceived (pattern : Word16) (s : State) : Host.Outcome State Fault Refusal :=
  .next
    (if s.line.receiver == .preamble && pattern == preamblePattern then
      s.setLine { s.line with receiver := .frame s.commonTime s.time.localCounter }
    else s)

/-- FRAME_TAKEN (R9): the burst under way ends and is taken as a frame. -/
def execFrameTaken (bytes : List Byte) (order : List FrameAct) (s : State) :
    Host.Outcome State Fault Refusal :=
  .next (takeBurst bytes order s)

/-- PREAMBLE_START (R2, R7): common time reaches slot start + 16.8 µs of the own slot and an ordered transmitter
moves to SENDING, 3.2 µs before the SOF mark; a burst under way is cut off and what was received of it is
taken as a frame (R9, log 11). -/
def execPreambleStart (received : List Byte) (order : List FrameAct) (s : State) :
    Host.Outcome State Fault Refusal :=
  .next
    (match s.line.transmitter with
    | .ordered o =>
      let now := passTime (s.untilPreamble.getD 0) s
      let untilSof := if (s.aheadOfPreamble o.round).isSome then 4 else 3
      takeBurst received order
        (now.setLine { now.line with transmitter := .sendingPreamble o untilSof })
    | .idle | .sendingPreamble _ _ | .sendingBody _ _ => s)

/-- SOF_MARK_SENT (R4): the last preamble bit ends and the content of the frame is taken. -/
def execSofMarkSent (s : State) : Host.Outcome State Fault Refusal :=
  .next
    (match s.line.transmitter with
    | .sendingPreamble o n => sendContent o (passTime n s)
    | .idle | .ordered _ | .sendingBody _ _ => s)

/-- FRAME_SENT (R7): after the last CRC bit the transmitter releases the line and returns to IDLE. -/
def execFrameSent (s : State) : Host.Outcome State Fault Refusal :=
  .next
    (match s.line.transmitter with
    | .sendingBody _ n =>
      let now := passTime n s
      now.setLine { now.line with transmitter := .idle }
    | .idle | .ordered _ | .sendingPreamble _ _ => s)

/-- The echo is good when every byte matches and the line then falls idle in time (R8). -/
def echoGood (sent heard : List Byte) (fellIdle : Bool) : Bool := heard == sent && fellIdle

/-- ECHO_RESULT (R8): the echo of the own frame is compared, a failure counted, and the result reported to the
Station Controller. -/
def execEchoResult (heard : List Byte) (fellIdle : Bool) (s : State) : Host.Outcome State Fault Refusal :=
  .next
    (match s.line.echo with
    | none => s
    | some (kind, sent) =>
      let good := echoGood sent heard fellIdle
      controllerTakeEcho kind good
        (s.setLine { s.line with
          echo := none
          echoFailures := if good then s.line.echoFailures else countUp s.line.echoFailures 1 }))

end Sys2Proof.Machine
end

