-- ==== Sys2Proof/Machine/ClockEvents.lean ====
section
/-! DEFINITION. The events of the part's own clock: SLOT_BOUNDARY, LISTEN_TIMER_EXPIRY, SAMPLE_EVENT, WINDOW_END and
HOLD_END (R18, R23, R50, R76, R85), and what the part does by itself while no command waits (log 1). Each
event lets local time run to its instant, if it is not there yet (log 7). -/

namespace Sys2Proof.Machine

/-- SLOT_BOUNDARY (R18): common time reaches the next slot start, and every block takes the boundary. -/
def execSlotBoundary (order : List BoundaryAct) (s : State) : Host.Outcome State Fault Refusal :=
  .next
    (match s.ctrl.slotTimer with
    | some b => takeBoundary b order (passTime (s.untilBoundary.getD 0) s)
    | none => s)

/-- LISTEN_TIMER_EXPIRY (R23): in LISTEN the listen timer runs out and the station enters COLDSTART. -/
def execListenTimerExpiry (s : State) : Host.Outcome State Fault Refusal :=
  .next
    (match s.ctrl.station, s.ctrl.listenTimer with
    | .listen, some dt => enterColdstart (passTime dt s)
    | _, _ => s)

/-- SAMPLE_EVENT (R76): the eight inputs are sampled; the one that brings the window counter to 10,000 also ends
the window (log 14). -/
def execSampleEvent (levels : BitVec 8) (s : State) : Host.Outcome State Fault Refusal :=
  .next
    (match s.capture.untilSample with
    | some dt => takeSample levels (passTime dt s)
    | none => s)

/-- WINDOW_END (R85): the sample event that brings the window counter to 10,000; before that sample it is not
due and nothing happens (log 14). -/
def execWindowEnd (levels : BitVec 8) (s : State) : Host.Outcome State Fault Refusal :=
  .next
    (match s.capture.untilSample with
    | some dt => if s.endsWindow then takeSample levels (passTime dt s) else s
    | none => s)

/-- HOLD_END (R50): local time runs until the hold count is 0, and common time advances again. -/
def execHoldEnd (s : State) : Host.Outcome State Fault Refusal := .next (passTime s.time.holdCount s)

/-! ## The part's own clock -/

/-- The events that are due at this instant. -/
def State.dueEvents (s : State) : List Instr :=
  let c := s.time.localCounter
  let when_ (until_ : Option Nat) (i : Instr) : List Instr := if until_ = some 0 then [i] else []
  when_ s.untilBoundary (.slotBoundary (Config.boundaryOrder c)) ++
  when_ (if s.ctrl.station = .listen then s.ctrl.listenTimer else none) .listenTimerExpiry ++
  when_ s.capture.untilSample
    (if s.endsWindow then .windowEnd (Config.inputLevels c) else .sampleEvent (Config.inputLevels c)) ++
  when_ s.untilTimeout .portTimerExpiry ++
  when_ s.untilPreamble (.preambleStart (Config.burstBytes c) (Config.handoverOrder c)) ++
  (match s.line.transmitter with
    | .sendingPreamble _ 0 => [.sofMarkSent]
    | .sendingBody _ 0 => [.frameSent]
    | _ => [])

/-- The event the part takes next by itself: one of those due, which one being open (log 3); none where no event
is due, or during a reset, when the local counter does not run (R40). -/
def State.nextOwnEvent (s : State) : Option Instr :=
  if s.pins.resetLow then none
  else
    match s.dueEvents with
    | [] => none
    | e :: rest => some ((e :: rest).getD (Config.dueChoice s.time.localCounter (rest.length + 1) %
        (rest.length + 1)) e)

/-- One microsecond of local time passes; during a reset none does (R40). -/
def idleMicrosecond (s : State) : State := if s.pins.resetLow then s else passTime 1 s

end Sys2Proof.Machine
end

