-- ==== Sys2Proof/Machine/PortEvents.lean ====
section
/-! DEFINITION. SELN_ASSERTED, SELN_RELEASED, PORT_TIMER_EXPIRY and SCK_RISING_EDGE (R147 to R149). -/

namespace Sys2Proof.Machine

/-- A transaction begins: COMMAND, the timer from 0, received bytes, buffer and bytes sent emptied (R147). -/
def HostPort.beginTransaction (p : HostPort) : HostPort :=
  { p with
    transaction := .command
    received := []
    buffer := []
    bytesSent := 0
    timer := some 0
    bitCount := 0
    shift := 0 }

/-- SELN_ASSERTED (R147): from IDLE a transaction begins; during a reset the port ignores its lines (R146). -/
def execSelnAsserted (s : State) : Host.Outcome State Fault Refusal :=
  let low := s.setPins { s.pins with selnLow := true }
  .next (if s.port.transaction = .idle && !s.pins.resetLow then low.setPort s.port.beginTransaction else low)

/-- SELN_RELEASED (R148): the transaction ends; in IDLE there is none. -/
def execSelnReleased (s : State) : Host.Outcome State Fault Refusal :=
  let high := s.setPins { s.pins with selnLow := false }
  .next (if s.port.transaction = .idle then high else endTransaction high)

/-- PORT_TIMER_EXPIRY (R149): in COMMAND or RESPONSE, local time reaches 250 ms from the assertion and the
transaction is ended. -/
def execPortTimerExpiry (s : State) : Host.Outcome State Fault Refusal :=
  .next (match s.untilTimeout with
    | some dt => timeoutTransaction (passTime dt s)
    | none => s)

/-- SCK_RISING_EDGE (R147). -/
def execSckRisingEdge (sdi : Bool) (s : State) : Host.Outcome State Fault Refusal := .next (clockBit sdi s)

end Sys2Proof.Machine
end

