-- ==== Sys2Proof/Machine/ReadCommands.lean ====
section
/-! DEFINITION. The reading host commands, each taken whole (section 9.2; log 9). -/

namespace Sys2Proof.Machine

/-- GET_STATUS (R151). -/
def execGetStatus (s : State) : Host.Outcome State Fault Refusal :=
  .next (takeCommand [0x01] getStatusCommand s)

/-- READ_TIME (R153). -/
def execReadTime (s : State) : Host.Outcome State Fault Refusal :=
  .next (takeCommand [0x02] readTimeCommand s)

/-- READ_ATTENTION (R164). -/
def execReadAttention (s : State) : Host.Outcome State Fault Refusal :=
  .next (takeCommand [0x03] readAttentionCommand s)

/-- READ_PEER (R154). -/
def execReadPeer (number : Byte) (s : State) : Host.Outcome State Fault Refusal :=
  .next (takeCommand [0x04, number] (readPeerCommand number) s)

/-- READ_COUNTS (R155). -/
def execReadCounts (s : State) : Host.Outcome State Fault Refusal :=
  .next (takeCommand [0x05] readCountsCommand s)

/-- READ_RECORD (R139). -/
def execReadRecord (s : State) : Host.Outcome State Fault Refusal :=
  .next (takeCommand [0x10] readRecordCommand s)

/-- PEEK_RECORD (R141). -/
def execPeekRecord (s : State) : Host.Outcome State Fault Refusal :=
  .next (takeCommand [0x11] peekRecordCommand s)

end Sys2Proof.Machine
end

