-- ==== Sys2Proof/Machine/ResetEvents.lean ====
section
/-! DEFINITION. POWER_ON_RESET, PIN_RESET and RESET_END (R16, R146, R170, R176). -/

namespace Sys2Proof.Machine

/-- A reset under way: every block at its reset values (R16 and the reset column of every block's table); SELn
and the waiting commands are outside it. -/
def State.inReset (s : State) : State :=
  { State.reset with pins := { s.pins with resetLow := true }, pending := s.pending }

/-- POWER_ON_RESET (R16). -/
def execPowerOnReset (s : State) : Host.Outcome State Fault Refusal := .next s.inReset

/-- PIN_RESET: RESETn driven low ends any operation under way and leaves every block as its table gives (R16). -/
def execPinReset (s : State) : Host.Outcome State Fault Refusal := .next s.inReset

/-- The end of a reset (R40, R146, R176). -/
def endReset (straps : BitVec 4) (s : State) : State :=
  { s with
    settings := { s.settings with stationNumber := straps.toFin }
    port := { s.port with transaction := if s.pins.selnLow then .discard else .idle }
    pins := { s.pins with resetLow := false } }

/-- RESET_END: the straps are sampled as the station number, local time starts, and the port enters DISCARD if
SELn is low (R146, R176). Without a reset under way there is none to end (log 6). -/
def execResetEnd (straps : BitVec 4) (s : State) : Host.Outcome State Fault Refusal :=
  .next (if s.pins.resetLow then endReset straps s else s)

end Sys2Proof.Machine
end

