-- ==== Sys2Proof/Machine/Dispatch.lean ====
section
/-! DEFINITION. The meaning of every command, one arm for each row of spec/opcode_table.json. -/

namespace Sys2Proof.Machine

/-- The effect of a command on everything but the queue of waiting commands. -/
def exec (i : Instr) (s : State) : Host.Outcome State Fault Refusal :=
  match i with
  | .powerOnReset => Sys2Proof.Machine.execPowerOnReset s
  | .pinReset => Sys2Proof.Machine.execPinReset s
  | .resetEnd straps => Sys2Proof.Machine.execResetEnd straps s
  | .selnAsserted => Sys2Proof.Machine.execSelnAsserted s
  | .selnReleased => Sys2Proof.Machine.execSelnReleased s
  | .portTimerExpiry => Sys2Proof.Machine.execPortTimerExpiry s
  | .getStatus => Sys2Proof.Machine.execGetStatus s
  | .readTime => Sys2Proof.Machine.execReadTime s
  | .readAttention => Sys2Proof.Machine.execReadAttention s
  | .readPeer number => Sys2Proof.Machine.execReadPeer number s
  | .readCounts => Sys2Proof.Machine.execReadCounts s
  | .readRecord => Sys2Proof.Machine.execReadRecord s
  | .peekRecord => Sys2Proof.Machine.execPeekRecord s
  | .inject tag => Sys2Proof.Machine.execInject tag s
  | .setMask causes => Sys2Proof.Machine.execSetMask causes s
  | .clearCounts => Sys2Proof.Machine.execClearCounts s
  | .writeProfile sc sl w cl x g => Sys2Proof.Machine.execWriteProfile sc sl w cl x g s
  | .writeInput number settings debounce chatter => Sys2Proof.Machine.execWriteInput number settings debounce chatter s
  | .start => Sys2Proof.Machine.execStart s
  | .leave => Sys2Proof.Machine.execLeave s
  | .rejoin => Sys2Proof.Machine.execRejoin s
  | .unknownCommandCode code => Sys2Proof.Machine.execUnknownCommandCode code s
  | .frameTaken bytes order => Sys2Proof.Machine.execFrameTaken bytes order s
  | .preambleStart received order => Sys2Proof.Machine.execPreambleStart received order s
  | .sofMarkSent => Sys2Proof.Machine.execSofMarkSent s
  | .frameSent => Sys2Proof.Machine.execFrameSent s
  | .echoResult heard fellIdle => Sys2Proof.Machine.execEchoResult heard fellIdle s
  | .slotBoundary order => Sys2Proof.Machine.execSlotBoundary order s
  | .listenTimerExpiry => Sys2Proof.Machine.execListenTimerExpiry s
  | .sampleEvent levels => Sys2Proof.Machine.execSampleEvent levels s
  | .windowEnd levels => Sys2Proof.Machine.execWindowEnd levels s
  | .holdEnd => Sys2Proof.Machine.execHoldEnd s
  | .sckRisingEdge sdi => Sys2Proof.Machine.execSckRisingEdge sdi s
  | .burstBegins => Sys2Proof.Machine.execBurstBegins s
  | .sofMarkReceived pattern => Sys2Proof.Machine.execSofMarkReceived pattern s

end Sys2Proof.Machine
end

