-- ==== Sys2Proof/WellFormed.lean ====
section
/-! DEFINITION. Which commands are well formed: an UNKNOWN_COMMAND_CODE names no command of R169, and an order of
acts names no act twice (each block takes the one event once, R13, R18). -/

namespace Sys2Proof

/-- The fifteen command codes of R169. -/
def knownCodes : List Byte :=
  [0x01, 0x02, 0x03, 0x04, 0x05, 0x10, 0x11, 0x20, 0x30, 0x31, 0x40, 0x41, 0x50, 0x51, 0x52]

/-- A command as the outside of the part can form it. -/
def Instr.wellFormed : Instr → Bool
  | .unknownCommandCode code => !knownCodes.contains code
  | .frameTaken _ order => decide order.Nodup
  | .preambleStart _ order => decide order.Nodup
  | .slotBoundary order => decide order.Nodup
  | .powerOnReset | .pinReset | .resetEnd _ | .selnAsserted | .selnReleased | .portTimerExpiry => true
  | .getStatus | .readTime | .readAttention | .readPeer _ | .readCounts | .readRecord | .peekRecord => true
  | .inject _ | .setMask _ | .clearCounts | .writeProfile .. | .writeInput .. => true
  | .start | .leave | .rejoin => true
  | .sofMarkSent | .frameSent | .echoResult .. | .listenTimerExpiry => true
  | .sampleEvent _ | .windowEnd _ | .holdEnd | .sckRisingEdge _ | .burstBegins | .sofMarkReceived _ => true

end Sys2Proof
end

