-- ==== Sys2Proof/Safety.lean ====
section
/-! DEFINITION. What a sound state of the E416 is, block by block: what the manual says holds at every instant. Each
predicate is one that every step keeps from any state that has it. Beside them, what a frame must be to stand on
the line, the bytes and bits by which the host sends a command, and the running of several commands in turn. -/

namespace Sys2Proof.Machine

/-! ## Invariants -/

/-- A record stands before another in key order, or at an equal key (R124). -/
def JournalRecord.keyNotAfter (a b : JournalRecord) : Prop := b.keyEarlier a = false

/-- The Journal's form: at most 256 records (R133), the unreleased part in key order (R124) and later than the
horizon (R128), and a pinned record only where there is a head to pin (R139). -/
structure Journal.Ordered (j : Journal) : Prop where
  held : j.held ≤ 256
  sorted : j.unreleased.Pairwise JournalRecord.keyNotAfter
  beyond : ∀ h, j.horizon = some h → ∀ r ∈ j.unreleased, h.earlier r.time = true
  pin : j.pinned = true → j.released ≠ []

/-- The Outbound Queue's form: at most 32 records with consecutive sequences up to the next one (R95), the
announced ones a run at the head (R94), each with the session held now (R96). -/
structure State.Numbered (s : State) : Prop where
  room : s.queue.records.length ≤ 32
  consecutive : ∀ k (h : k < s.queue.records.length),
    s.queue.records[k].sequence + BitVec.ofNat 15 (s.queue.records.length - k) = s.queue.nextSequence
  announcedFirst : s.queue.records.Pairwise fun a b => b.announced = true → a.announced = true
  session : ∀ r ∈ s.queue.records, r.session = s.ctrl.session

/-- Two records share an identity (R124): origin, session and sequence, and the session is not none. -/
def JournalRecord.identityShared (a b : JournalRecord) : Prop :=
  a.session ≠ none ∧ a.origin = b.origin ∧ a.session = b.session ∧ a.sequence = b.sequence

/-- The Journal never holds two records of one identity (R125), not even when those that await a session take it
(R127): they are own records numbered apart, made before the numbering's first entry to ACTIVE (R95, R96, R105). -/
structure State.Identified (s : State) : Prop where
  unique : (s.journal.released ++ s.journal.unreleased).Pairwise fun a b => ¬ a.identityShared b
  awaiting : ∀ r ∈ s.journal.released ++ s.journal.unreleased, r.awaiting = true →
    r.origin = s.own ∧ r.session = none ∧ r.sequence.toNat < s.queue.nextSequence.toNat ∧ s.ctrl.session = none
  apart : (s.journal.released ++ s.journal.unreleased).Pairwise fun a b =>
    a.awaiting = true → b.awaiting = true → a.sequence ≠ b.sequence
  numbering : s.ctrl.session = none → s.ctrl.station = .departed ∨ s.ctrl.station = .faulted ∨
    s.queue.nextSequence.toNat = s.queue.records.length
  active : s.ctrl.station = .active → s.ctrl.session ≠ none
  inReset : s.pins.resetLow = true →
    s.ctrl.station = .config ∧ s.port.transaction = .idle ∧ s.journal.released = [] ∧ s.journal.unreleased = []

/-- Each persistent cause is in the attention set while its condition holds (R163, R183, R184). -/
structure State.CausesHeld (s : State) : Prop where
  suspect : s.timeSuspect = true → s.raised .timeSuspect = true
  duplicate : s.duplicated = true → s.raised .duplicate = true

/-- A peer entry of which nothing but what was last heard is held (R71). -/
def PeerEntry.isEmpty (e : PeerEntry) : Prop := e.state = .absent ∧ e.heardCount = 0 ∧ e.missCount = 0

/-- The Station Controller, the settings and the Time Unit agree with the station state (R7, R9, R12, R16, R18, R20,
R30, R31, R34 to R37, R39, R41, R52, R76, R171, R173, R177). -/
structure State.Consistent (s : State) : Prop where
  slotTimer : s.ctrl.slotTimer.isSome = s.holdsTime
  listenTimer : s.ctrl.listenTimer.isSome = (s.ctrl.station == .listen)
  contention : s.ctrl.contention.isSome = (s.ctrl.station == .coldstart)
  integration : s.ctrl.integration.isSome = (s.ctrl.station == .integrate)
  restarts : s.ctrl.listenRestarts ≤ 8
  drain : s.ctrl.drainCount ≤ 8
  echoRun : s.ctrl.echoRun ≤ 2
  clampedRun : s.ctrl.clampedRun ≤ 2
  session : s.ctrl.station = .active → s.ctrl.session.isSome = true
  leaving : s.ctrl.leavePending = true →
    s.ctrl.station = .listen ∨ s.ctrl.station = .coldstart ∨ s.ctrl.station = .integrate ∨ s.ctrl.station = .active
  departing : s.ctrl.departingOrder = true → s.ctrl.station = .active ∧ s.ctrl.leavePending = true
  frozen : s.settings.frozen = (s.ctrl.station != .config)
  signature : s.settings.signature = if s.ctrl.station = .config then none else some s.settings.profile.signature
  profile : s.settings.profile.inRange = true
  number : s.ctrl.station ≠ .config → s.own.val < s.settings.profile.slotCount
  receiver : s.line.receiverOn = (s.ctrl.station != .config)
  sampling : s.capture.untilSample.isSome = (s.ctrl.station != .config)
  order : ∀ o, s.line.transmitter = .ordered o → s.ctrl.station = .coldstart ∨ s.ctrl.station = .active
  noTimeYet : s.ctrl.station = .config → s.time.quality = .noTime
  timed : s.ctrl.station = .coldstart ∨ s.ctrl.station = .integrate ∨ s.ctrl.station = .active →
    s.time.quality ≠ .noTime
  untimed : s.time.quality = .noTime → s.time.correctionOffset = 0 ∧ s.time.holdCount = 0
  hold : s.time.holdCount ≤ 20
  quality : s.time.quality = .noTime ∨ s.time.quality = qualityBy s.ctrl.station s.time.lastCorrection
  inReset : s.pins.resetLow = true → s.ctrl.station = .config ∧ s.port.transaction = .idle

/-- The Membership Table outside ACTIVE holds no peer, and outside ACTIVE and INTEGRATE no heard mark (R58, R71,
R72); its counts lie in their ranges (R57). -/
structure State.TableKept (s : State) : Prop where
  empty : s.ctrl.station ≠ .active → ∀ n : StationNo, s.members.peers[n].isEmpty
  unheard : s.ctrl.station ≠ .active → s.ctrl.station ≠ .integrate →
    ∀ n : StationNo, s.members.peers[n].heard = false
  grace : s.members.grace ≤ 3
  agree : s.members.agree ≤ 255
  disagree : s.members.disagree ≤ 255

/-- The entries that bear the own station number hold nothing (R57, R93, R110), and the deviation list holds none
of it (R46); while a reset is under way, before the straps are read, no entry holds anything (R16). -/
structure State.OwnUnused (s : State) : Prop where
  inReset : s.pins.resetLow = true →
    s.ctrl.station = .config ∧ s.port.transaction = .idle ∧ s.members = .reset ∧
      s.receipts.entries = Vector.replicate 16 .reset ∧ s.queue.ackedThrough = Vector.replicate 16 none ∧
      s.queue.peerSessions = Vector.replicate 16 none ∧ s.time.deviations = []
  peer : s.members.peers[s.own] = .reset
  receipt : s.receipts.entries[s.own] = .reset
  acked : s.queue.ackedThrough[s.own] = none
  peerSession : s.queue.peerSessions[s.own] = none
  deviation : ∀ d ∈ s.time.deviations, d.1 ≠ s.own

/-- Every counter is a 16-bit count (R14, R185). -/
def State.countersInRange (s : State) : Prop := ∀ c ∈ s.counters, c ≤ 65535

/-- A record is pinned exactly during a READ_RECORD answered with OK (R139, R140), and the port timer runs exactly in
COMMAND and RESPONSE (R147 to R149). -/
structure State.PinKept (s : State) : Prop where
  pin : s.journal.pinned = s.port.readingRecord
  timer : s.port.timer.isSome = (s.port.transaction == .command || s.port.transaction == .response)
  bits : s.port.bitCount ≤ 7
  inReset : s.pins.resetLow = true → s.port.transaction = .idle

/-! ## What several events have in common -/

/-- b is the first slot start later than the common time t (R18), whose offset lies in the round: t lies in the slot
before b, which for the start of slot 0 is the last slot of the round before. -/
def FirstSlotStartLater (p : Profile) (t : CommonTime) (b : SlotStart) : Prop :=
  (b.round = t.round ∧ b.slot < p.slotCount ∧
    t.offset < b.slot * p.slotLength ∧ b.slot * p.slotLength ≤ t.offset + p.slotLength) ∨
  (b.round = t.round + 1 ∧ b.slot = 0 ∧ (p.slotCount - 1) * p.slotLength ≤ t.offset)

/-- s with the port in RESPONSE, these bytes received and this transfer buffer, none of it sent (R147). -/
def State.answering (s : State) (received buffer : List Byte) : State :=
  s.setPort { s.port with
    transaction := .response
    received := received
    buffer := buffer
    bytesSent := 0
    bitCount := 0
    shift := 0 }

/-- The attention set has gained these causes and lost none; nothing else of the Host Port has changed (R163). -/
structure CausesAdded (s t : State) (added : Cause → Prop) : Prop where
  set : ∀ c, t.raised c = true ↔ s.raised c = true ∨ added c
  port : t.port = { s.port with attention := t.port.attention }

/-- The quality of a station that is not in ACTIVE (R52): SUSPECT, or NONE if it never had time. -/
def TimeUnit.idleQuality (t : TimeUnit) : Quality := if t.quality = .noTime then .noTime else .suspect

/-- The Membership Table is emptied; what was last heard of each peer is kept (R71, R72). -/
structure TableEmptied (s t : State) : Prop where
  entries : ∀ n : StationNo, t.members.peers[n] = { s.members.peers[n] with
    state := .absent, heard := false, heardCount := 0, missCount := 0 }
  counts : t.members.agree = 0 ∧ t.members.disagree = 0 ∧ t.members.grace = 0 ∧ t.members.entryBoundary = none

/-- What a release step with this candidate makes of the Journal j (R129, R130): without one nothing; else the horizon
is the later of the old one and the candidate, and the unreleased records at or before it go to the released part's
tail in the order they stand in. -/
structure StepTaken (candidate : Option CommonTime) (j k : Journal) : Prop where
  kept : candidate = none → k = j
  moved : ∀ c, candidate = some c → ∃ h : CommonTime,
    ((j.horizon = none ∨ ∃ old, j.horizon = some old ∧ old.earlier c = true) → h = c) ∧
    (∀ old, j.horizon = some old → old.earlier c = false → h = old) ∧
    k = { j with
      horizon := some h
      released := j.released ++ j.unreleased.filter fun r => !h.earlier r.time
      unreleased := j.unreleased.filter fun r => h.earlier r.time }

/-- What an entry to LISTEN makes of a state (R17, R21, R46, R52, R71, R72): a new episode, and nothing else. -/
structure ListenEntered (s t : State) : Prop where
  ctrl : t.ctrl = { s.ctrl with
    station := .listen
    listenTimer := some ((2 * s.settings.profile.slotCount + s.own.val) * s.settings.profile.slotLength)
    listenRestarts := 0
    contention := none
    integration := none }
  line : t.line = { s.line with transmitter := s.line.transmitter.withdraw }
  time : t.time = { s.time with deviations := [], quality := s.time.idleQuality }
  table : TableEmptied s t
  causes : CausesAdded s t fun c => c = .stateChange ∨ c = .timeSuspect
  others : t = { s with
    ctrl := t.ctrl, line := t.line, time := t.time, members := t.members, port := t.port }

/-- What an entry to DEPARTED (R37) or to FAULT (R33) makes of a state: timers stopped, the leave ended, the table
emptied, the pending loss cleared (R90), the queue discarded in DEPARTED (R106) and kept in FAULT (R107), and the
unreleased part released with FORCED set (R137). -/
structure Retired (station : StationState) (s t : State) : Prop where
  ctrl : t.ctrl = { s.ctrl with
    station := station
    listenTimer := none
    contention := none
    integration := none
    leavePending := false
    drainCount := 0
    departingOrder := false
    echoRun := 0
    clampedRun := 0
    slotTimer := none }
  line : t.line = { s.line with transmitter := s.line.transmitter.withdraw }
  time : t.time = { s.time with deviations := [], quality := s.time.idleQuality }
  table : TableEmptied s t
  capture : t.capture = { s.capture with pendingLoss := none }
  queue : t.queue =
    if station = .departed then
      { s.queue with records := [], abandoned := min (s.queue.abandoned + s.queue.records.length) 65535 }
    else s.queue
  released : t.journal.released =
    s.journal.released ++ s.journal.unreleased.map fun r => { r with forced := true }
  journal : t.journal = { s.journal with
    released := t.journal.released
    unreleased := []
    horizon := (s.journal.unreleased.getLast?.map (·.time)).or s.journal.horizon
    forced :=
      if s.journal.unreleased = [] then s.journal.forced
      else min (s.journal.forced + s.journal.unreleased.length) 65535 }
  causes : CausesAdded s t fun c => c = .stateChange ∨ c = .timeSuspect ∨ (c = .duplicate ∧ station = .faulted)
  others : t.settings = s.settings ∧ t.receipts = s.receipts ∧ t.pins = s.pins ∧ t.pending = s.pending

/-- What an entry to INTEGRATE on a frame makes of a state (R26, R44), `elapsed` µs of local time after its SOF mark:
the sender's time is adopted. -/
structure IntegrateEntered (f : Frame) (elapsed : Nat) (s t : State) : Prop where
  ctrl : t.ctrl = { s.ctrl with
    station := .integrate
    listenTimer := none
    contention := none
    integration := some (f.round + 1, false)
    slotTimer := some (slotStartAfter s.settings.profile t.commonTime) }
  adopted : t.time.count s.settings.profile =
    (f.round.toNat * s.roundLength + f.station.val * s.settings.profile.slotLength + 20 + elapsed) %
      s.settings.profile.cycle
  time : t.time = { s.time with
    correctionOffset := t.time.correctionOffset
    holdCount := 0
    deviations := []
    lastCorrection := none
    quality := .suspect }
  line : t.line = { s.line with transmitter := s.line.transmitter.withdraw }
  causes : CausesAdded s t fun c => c = .stateChange ∨ c = .timeSuspect
  others : t = { s with ctrl := t.ctrl, line := t.line, time := t.time, port := t.port }

/-- The session that an entry to ACTIVE leaves (R28). -/
def State.entrySession (s : State) : Session :=
  match s.ctrl.session with
  | some x => x
  | none =>
    let low := BitVec.ofNat 16 (s.commonTime.round.toNat % 65536)
    if s.ctrl.lastUsedSession = some low then low + 1 else low

/-- What an entry to ACTIVE at a boundary makes of a state (R28, R66, R70, R96, R127). -/
structure ActiveEntered (fromIntegrate : Bool) (b : SlotStart) (s t : State) : Prop where
  ctrl : t.ctrl = { s.ctrl with
    station := .active
    contention := none
    integration := none
    session := some s.entrySession
    lastUsedSession := some s.entrySession
    echoRun := 0
    clampedRun := 0 }
  records : t.queue = { s.queue with
    records := s.queue.records.map fun r => { r with session := some (r.session.getD s.entrySession) } }
  admitted : ∀ n : StationNo, t.members.peers[n] =
    if fromIntegrate && s.members.peers[n].heard then
      { s.members.peers[n] with state := .member, heard := false, heardCount := 2, missCount := 0 }
    else s.members.peers[n]
  table : t.members.grace = 3 ∧ t.members.agree = 0 ∧ t.members.disagree = 0 ∧ t.members.entryBoundary = some b
  quality : t.time = { s.time with
    quality := if s.time.quality = .noTime then .noTime else qualityBy .active s.time.lastCorrection }
  line : t.line = { s.line with transmitter := s.line.transmitter.withdraw }
  journal : t.journal = s.journal.takeSession s.own s.entrySession
  causes : CausesAdded s t fun c => c = .stateChange ∨ (c = .timeSuspect ∧ t.timeSuspect = true) ∨
    (c = .memberJoin ∧ fromIntegrate = true ∧ ∃ n : StationNo, s.members.peers[n].heard = true)
  others : t.settings = s.settings ∧ t.capture = s.capture ∧ t.receipts = s.receipts ∧ t.pins = s.pins ∧
    t.pending = s.pending

/-! ## Frames on the line -/

/-- A wire record that a receiver does not reject (R10), in rounds of length `rl`. -/
def WireRecord.sound (rl : Nat) (w : WireRecord) : Prop :=
  w.quality ≠ .noTime ∧ w.source.toNat ≤ 9 ∧ w.time.offset < rl

/-- A frame that fits the layout of R167: at most four sound announcements, none in a STARTUP, and a watermark
whose offset is not the code of none. -/
structure Frame.Sound (rl : Nat) (f : Frame) : Prop where
  count : f.announcements.length ≤ 4
  startup : f.kind = .startup → f.announcements = []
  announcements : ∀ w ∈ f.announcements, w.sound rl
  watermark : ∀ t, f.watermark = some t → t.offset < 0xFFFF

/-- A wire record is one that R10 makes garbled: the kind code, the quality code, the source or the offset of the
announcement at a position is out of its range. -/
def badAnnouncementAt (rl : Nat) (bytes : List Byte) (at_ : Nat) : Prop :=
  field bytes (at_ + 10) 1 / 16 = 0 ∨ 6 < field bytes (at_ + 10) 1 / 16 ∨ field bytes (at_ + 10) 1 % 4 = 3 ∨
    9 < field bytes (at_ + 9) 1 ∨ rl ≤ field bytes (at_ + 7) 2

/-- One of the grounds of R10 on which the bytes after a SOF mark are garbled. -/
def GarbledBytes (rl : Nat) (bytes : List Byte) : Prop :=
  bytes.length < 24 ∨ (field bytes 0 1 ≠ 0x1E ∧ field bytes 0 1 ≠ 0x2D) ∨ 15 < field bytes 1 1 ∨
    4 < field bytes 23 1 ∨ (field bytes 0 1 = 0x1E ∧ field bytes 23 1 ≠ 0) ∨
    bytes.length ≠ 74 + 13 * field bytes 23 1 ∨
    (∃ i < field bytes 23 1, badAnnouncementAt rl bytes (72 + 13 * i)) ∨
    (crc16 (bytes.take (72 + 13 * field bytes 23 1))).toNat ≠ field bytes (72 + 13 * field bytes 23 1) 2

/-- A frame does not lie in the slot its station number names (R12). -/
def OffSlotFrame (p : Profile) (f : Frame) (sof : CommonTime) : Prop :=
  p.slotCount ≤ f.station.val ∨ f.round ≠ p.slotRound f.station sof ∨
    p.window < (p.deviation f.station sof).natAbs

/-- The burst under way has a SOF mark, and these bytes of it are a valid frame (R9 to R13). -/
structure State.HearsValid (s : State) (bytes : List Byte) (f : Frame) (sof : CommonTime) (localAt : Nat) : Prop where
  receiver : s.line.receiver = .frame sof localAt
  frame : readFrame s.roundLength bytes = some f
  signature : s.settings.signature = some f.signature
  inSlot : s.holdsTime = true → ¬ OffSlotFrame s.settings.profile f sof

/-- The receiver is IDLE again and the frame counted as valid (R9, R14). -/
def State.afterValid (s : State) : State :=
  { s with line := { s.line with receiver := .idle, valid := min (s.line.valid + 1) 65535 } }

/-! ## Several commands in turn -/

/-- Commands carried out in turn, stopping at the first fault or refusal. -/
def execAll : List Instr → State → Host.Outcome State Fault Refusal
  | [], s => .next s
  | i :: is, s =>
    match exec i s with
    | .next s' => execAll is s'
    | .fault r => .fault r
    | .refused r => .refused r

/-- The bytes by which the host sends a command (R147, R169); none for the rows that are no host commands. -/
def hostCommandBytes : Instr → Option (List Byte)
  | .getStatus => some [0x01]
  | .readTime => some [0x02]
  | .readAttention => some [0x03]
  | .readPeer number => some [0x04, number]
  | .readCounts => some [0x05]
  | .readRecord => some [0x10]
  | .peekRecord => some [0x11]
  | .inject tag => some (0x20 :: bytesOf 2 tag.toNat)
  | .setMask causes => some (0x30 :: bytesOf 2 causes.toNat)
  | .clearCounts => some [0x31]
  | .writeProfile slotCount slotLength window limit exclusion guard =>
    some ([0x40, slotCount] ++ bytesOf 2 slotLength.toNat ++ [window, limit, exclusion] ++ bytesOf 2 guard.toNat)
  | .writeInput number settings debounce chatter => some [0x41, number, settings, debounce, chatter]
  | .start => some [0x50]
  | .leave => some [0x51]
  | .rejoin => some [0x52]
  | .unknownCommandCode code => some [code]
  | .powerOnReset | .pinReset | .resetEnd _ | .selnAsserted | .selnReleased | .portTimerExpiry => none
  | .frameTaken .. | .preambleStart .. | .sofMarkSent | .frameSent | .echoResult .. => none
  | .slotBoundary _ | .listenTimerExpiry | .sampleEvent _ | .windowEnd _ | .holdEnd => none
  | .sckRisingEdge _ | .burstBegins | .sofMarkReceived _ => none

/-- The bits of a byte, most significant first (R147). -/
def bitsOfByte (b : Byte) : List Bool :=
  [b.getMsbD 0, b.getMsbD 1, b.getMsbD 2, b.getMsbD 3, b.getMsbD 4, b.getMsbD 5, b.getMsbD 6, b.getMsbD 7]

/-- The rising edges of SCK that clock these bytes in (R147). -/
def clockEdges (bytes : List Byte) : List Instr := (bytes.flatMap bitsOfByte).map .sckRisingEdge

end Sys2Proof.Machine
end

