-- ==== Sys2Proof/Certificates/Slice0/Obligations.lean ====
section
/-! DEFINITION. The statements about the E416, for the provers: how commands are taken, what each command does and
where it completes, what the blocks make of an event, and what every step keeps. OBLIGATIONS.json lists them
with the rules or sections of spec/ they rest on. -/

section Statements

open Sys2Proof Sys2Proof.Machine

/-! ## Steps and the passing of time -/

/-- A step with a command at the front of the queue is that command on the state with the queue's rest (that commands
wait in a queue is the model's choice of log 1). -/
def Obligations.StepTakesFrontCommand : Prop :=
  ∀ (c : Instr) (rest : List Instr) (s : State),
    step (s.setPending (c :: rest)) = exec c (s.setPending rest)

/-- While no command waits, the part takes an event that is due, if one is, and else lets one microsecond pass;
during a reset it does neither (the model's choice of log 1). That microsecond advances the local counter by 1 and
common time by 1, wrapping at the end of round 2^40 - 1, but not during a hold, and the timers run on local
time (sections 3.1 and 3.4). HOLD_END lets as many microseconds pass as the hold count says, with common time where
the hold found it (that it lets the time pass is the model's choice of log 7). -/
def Obligations.LocalTimePasses : Prop :=
  (∀ s : State, s.pending = [] →
     (s.pins.resetLow = true → step s = .next s) ∧
     (s.pins.resetLow = false → s.dueEvents ≠ [] → ∃ e ∈ s.dueEvents, step s = exec e s) ∧
     (s.pins.resetLow = false → s.dueEvents = [] → 0 < s.settings.profile.cycle →
       ∃ t : State, step s = .next t ∧
         t.time.localCounter = s.time.localCounter + 1 ∧
         t.time.holdCount = s.time.holdCount - 1 ∧
         (s.time.holdCount = 0 → t.time.count s.settings.profile =
           (s.time.count s.settings.profile + 1) % s.settings.profile.cycle) ∧
         (0 < s.time.holdCount → t.time.count s.settings.profile = s.time.count s.settings.profile) ∧
         t = { s with
           time := { s.time with
             localCounter := t.time.localCounter
             correctionOffset := t.time.correctionOffset
             holdCount := t.time.holdCount }
           ctrl := { s.ctrl with listenTimer := s.ctrl.listenTimer.map (· - 1) }
           capture := { s.capture with untilSample := s.capture.untilSample.map (· - 1) }
           port := { s.port with timer := s.port.timer.map (· + 1) }
           line := { s.line with transmitter := s.line.transmitter.pass 1 } })) ∧
  (∀ s : State, exec .holdEnd s = .next (passTime s.time.holdCount s) ∧
     ∃ t : State, exec .holdEnd s = .next t ∧ t.time.holdCount = 0 ∧ t.commonTime = s.commonTime ∧
       t.time.localCounter = s.time.localCounter + s.time.holdCount)

/-- Every command goes on to a next state, from every state, and leaves the waiting commands as they are: the manual
names nothing that stops the part. That the queue survives a reset is the model's choice of log 6, and that an event
whose condition does not hold goes on is that of log 8. -/
def Obligations.EveryCommandGoesOn : Prop :=
  ∀ (c : Instr) (s : State), ∃ t : State, exec c s = .next t ∧ t.pending = s.pending

/-! ## Resets -/

/-- POWER_ON_RESET and PIN_RESET, from every state, go on to the state in which every block stands as the reset column
of its table gives; RESET_END during a reset goes on with the straps sampled as the station number, ID0 the least
significant bit, and the port in DISCARD if SELn is low and else in IDLE, and nothing else changed (sections 1.7 to
10.5). The model's choices of log 6: the bit counter and the shift register of the port are 0, the level on SELn
and the waiting commands stay, a reset is under way until RESET_END, and without one RESET_END changes nothing. -/
def Obligations.ResetReturnsEveryBlock : Prop :=
  (∀ s : State, ∃ t : State, exec .powerOnReset s = .next t ∧ exec .pinReset s = .next t ∧
     t.ctrl = { station := .config, listenTimer := none, listenRestarts := 0, contention := none
                integration := none, session := none, lastUsedSession := none, leavePending := false
                drainCount := 0, departingOrder := false, echoRun := 0, clampedRun := 0, slotTimer := none } ∧
     t.settings.profile = { slotCount := 8, slotLength := 1000, window := 10, correctionLimit := 5
                            exclusion := 3, guard := 50 } ∧
     (∀ i : InputNo, t.settings.inputs[i] = { edge := .both, invert := false, debounce := 4, chatter := 0 }) ∧
     t.settings.frozen = false ∧ t.settings.signature = none ∧
     t.line = { receiverOn := false, receiver := .idle, transmitter := .idle, echo := none
                valid := 0, garbled := 0, foreign := 0, offSlot := 0, echoFailures := 0 } ∧
     t.time = { localCounter := 0, correctionOffset := 0, holdCount := 0, deviations := [], lastCorrection := none
                quality := .noTime } ∧
     (∀ n : StationNo, t.members.peers[n] = { state := .absent, heard := false, heardCount := 0, missCount := 0
                                              lastRound := none, lastView := none, lastQuality := none } ∧
       t.receipts.entries[n] = { knownSession := none, receivedThrough := none, issuedThrough := none
                                 watermark := none } ∧
       t.queue.ackedThrough[n] = none ∧ t.queue.peerSessions[n] = none) ∧
     (t.members.agree = 0 ∧ t.members.disagree = 0 ∧ t.members.grace = 0 ∧ t.members.entryBoundary = none) ∧
     (∀ i : InputNo, t.capture.trackers[i] = { state := .unset none 0, windowCount := 0, chattering := false }) ∧
     (t.capture.windowCounter = 0 ∧ t.capture.pendingLoss = none ∧ t.capture.untilSample = none) ∧
     (t.queue.records = [] ∧ t.queue.nextSequence = 0 ∧ t.queue.issuedThrough = none) ∧
     t.journal = { released := [], unreleased := [], horizon := none, pinned := false
                   overrun := 0, overflow := 0, late := 0, forced := 0 } ∧
     (∀ n ∈ t.counters, n = 0) ∧
     t.port = { transaction := .idle, received := [], buffer := [], bytesSent := 0, timer := none
                attention := 0, mask := 0x1FF, bitCount := 0, shift := 0 } ∧
     (∀ x : Cause, t.port.mask.getLsbD x.bit = true) ∧
     t.rdy = false ∧ t.attn = false ∧ t.sdo = none ∧
     t.pins = { resetLow := true, selnLow := s.pins.selnLow } ∧ t.pending = s.pending) ∧
  (∀ (straps : BitVec 4) (s : State),
     (s.pins.resetLow = true → ∃ t : State, exec (.resetEnd straps) s = .next t ∧
       t.own.val = straps.toNat ∧
       t.port.transaction = (if s.pins.selnLow then .discard else .idle) ∧
       t = { s with
         settings := { s.settings with stationNumber := t.own }
         port := { s.port with transaction := t.port.transaction }
         pins := { s.pins with resetLow := false } }) ∧
     (s.pins.resetLow = false → exec (.resetEnd straps) s = .next s))

/-! ## Transactions of the host port -/

/-- SELn falling in IDLE begins a transaction in COMMAND with nothing received and the timer from 0; in any other
transaction state, and during a reset, only the level is noted. A rising edge of SCK is ignored without a transaction,
is else a bit of the byte under way, and at the eighth, in RESPONSE and DISCARD, one more byte sent. SDO is high
impedance in IDLE, 1 in COMMAND and DISCARD, and in RESPONSE the next bit of the buffer, most significant first, and 1
past its end (section 9.1; that bytes count in DISCARD is log 13). -/
def Obligations.SelectAndClockEdges : Prop :=
  (∀ s : State,
     (s.port.transaction = .idle → s.pins.resetLow = false → ∃ t : State, exec .selnAsserted s = .next t ∧
       t = { s with
         pins := { s.pins with selnLow := true }
         port := { s.port with
           transaction := .command, received := [], buffer := [], bytesSent := 0, timer := some 0
           bitCount := 0, shift := 0 } } ∧
       s.sdo = none ∧ t.sdo = some true) ∧
     (s.port.transaction ≠ .idle ∨ s.pins.resetLow = true →
       exec .selnAsserted s = .next { s with pins := { s.pins with selnLow := true } })) ∧
  (∀ (sdi : Bool) (s : State),
     (s.port.transaction = .idle → exec (.sckRisingEdge sdi) s = .next s ∧ s.sdo = none) ∧
     (s.port.transaction ≠ .idle → s.port.bitCount < 7 → exec (.sckRisingEdge sdi) s = .next { s with
       port := { s.port with
         bitCount := s.port.bitCount + 1
         shift := (s.port.shift <<< 1) ||| (if sdi then 1 else 0) } }) ∧
     (s.port.transaction = .response ∨ s.port.transaction = .discard → s.port.bitCount = 7 →
       exec (.sckRisingEdge sdi) s = .next { s with
         port := { s.port with bitCount := 0, shift := 0, bytesSent := s.port.bytesSent + 1 } }) ∧
     (s.port.transaction = .command ∨ s.port.transaction = .discard → s.sdo = some true) ∧
     (s.port.transaction = .response → s.port.bitCount ≤ 7 → s.port.bytesSent < s.port.buffer.length →
       s.sdo = some (decide ((s.port.buffer.getD s.port.bytesSent 0).toNat / 2 ^ (7 - s.port.bitCount) % 2 = 1))) ∧
     (s.port.transaction = .response → s.port.bitCount ≤ 7 → s.port.buffer.length ≤ s.port.bytesSent →
       s.sdo = some true))

/-- The release of SELn ends the transaction: what was received in COMMAND is dropped, a READ_RECORD answered with OK
removes the pinned record after seventeen bytes and else leaves it, and nothing else of the part changes; in
IDLE the release has no effect (R148). -/
def Obligations.SelectReleaseEndsTransaction : Prop :=
  ∀ s : State, s.PinKept → ∃ t : State, exec .selnReleased s = .next t ∧
    t.port.transaction = .idle ∧ t.port.timer = none ∧ t.sdo = none ∧
    (s.port.transaction = .idle → t.port = s.port) ∧
    (s.port.transaction ≠ .idle → t.port = { s.port with
      transaction := .idle
      received := if s.port.transaction = .command then [] else s.port.received
      timer := none, bitCount := 0, shift := 0 }) ∧
    (s.port.readingRecord = true → 17 ≤ s.port.bytesSent →
      t.journal = { s.journal with released := s.journal.released.tail, pinned := false }) ∧
    (s.port.readingRecord = true → s.port.bytesSent ≤ 16 → t.journal = { s.journal with pinned := false }) ∧
    (s.port.readingRecord = false → t.journal = s.journal) ∧
    t = { s with pins := { s.pins with selnLow := false }, port := t.port, journal := t.journal }

/-- The port timer expires 250 ms after the assertion in COMMAND or RESPONSE: after that local time the port is in
DISCARD with its timer stopped, what was received in COMMAND is dropped, a read is abandoned and PORT_TIMEOUT
is in the set (section 9.1; that the time passes is log 7). With no timer running nothing happens. -/
def Obligations.PortTimeoutEndsTransaction : Prop :=
  ∀ s : State, s.PinKept →
    (∀ n, s.port.timer = some n → ∃ t : State, exec .portTimerExpiry s = .next t ∧
      t.port.transaction = .discard ∧ t.port.timer = none ∧ t.sdo = some true ∧
      t.port = { s.port with
        transaction := .discard
        received := if s.port.transaction = .command then [] else s.port.received
        timer := none
        attention := t.port.attention } ∧
      (∀ c, t.raised c = true ↔ s.raised c = true ∨ c = .portTimeout) ∧
      t.journal = { s.journal with pinned := false } ∧
      t = { passTime (250000 - n) s with port := t.port, journal := t.journal }) ∧
    (s.port.timer = none → exec .portTimerExpiry s = .next s)

/-- Clocking in the bytes of a host command, bit by bit from the first edge of a transaction, does exactly what the
command's row does (sections 9.1 and 9.6; that a row is taken whole is the model's choice of log 9). -/
def Obligations.ClockedCommandEqualsItsRow : Prop :=
  ∀ (i : Instr) (bytes : List Byte) (s : State),
    i.wellFormed = true → hostCommandBytes i = some bytes →
    s.port.transaction = .command → s.port.received = [] → s.port.bitCount = 0 →
    execAll (clockEdges bytes) s = exec i s

/-- A code that names no command is answered with ARG and has no other effect (section 9.1). Outside COMMAND a host
command does nothing (the model's choice of log 9), and an event whose condition does not hold is no event: nothing
happens (the model's choice of log 8). -/
def Obligations.UnknownCodesAndEventsNotDue : Prop :=
  ((∀ (i : Instr) (s : State), (hostCommandBytes i).isSome = true → s.port.transaction ≠ .command →
     exec i s = .next s) ∧
   (∀ (code : Byte) (s : State), (Instr.unknownCommandCode code).wellFormed = true →
     s.port.transaction = .command → exec (.unknownCommandCode code) s = .next (s.answering [code] [0x03]))) ∧
  (∀ s : State,
     ((∀ o n, s.line.transmitter ≠ .sendingPreamble o n) → exec .sofMarkSent s = .next s) ∧
     (s.line.echo = none → ∀ heard idle, exec (.echoResult heard idle) s = .next s) ∧
     (s.ctrl.slotTimer = none → ∀ order, exec (.slotBoundary order) s = .next s) ∧
     (s.capture.untilSample = none → ∀ levels,
       exec (.sampleEvent levels) s = .next s ∧ exec (.windowEnd levels) s = .next s) ∧
     (s.ctrl.station ≠ .listen ∨ s.ctrl.listenTimer = none → exec .listenTimerExpiry s = .next s))

/-! ## Commands that read -/

/-- GET_STATUS answers OK and the eleven bytes of the snapshot, and changes nothing but the transfer buffer; bit k of
the view is set for the own number and for each peer held as MEMBER or MISSING (sections 4.1, 9.2, 9.6). The codes of
station state and quality are those of section 9.6. -/
def Obligations.StatusSnapshot : Prop :=
  ∀ s : State, s.port.transaction = .command → s.Numbered → s.journal.Ordered →
    (∃ buffer, exec .getStatus s = .next (s.answering [0x01] buffer) ∧
      buffer.length = 12 ∧
      field buffer 0 1 = 0 ∧
      field buffer 1 1 = s.ctrl.station.code ∧
      field buffer 2 1 = s.time.quality.code + (if s.ctrl.leavePending then 4 else 0) +
        (if s.ctrl.session.isSome then 8 else 0) ∧
      field buffer 3 2 = s.view.toNat ∧
      field buffer 5 2 = s.journal.released.length ∧
      field buffer 7 2 = s.journal.unreleased.length ∧
      field buffer 9 1 = s.queue.records.length ∧
      field buffer 10 2 = (s.ctrl.session.getD 0).toNat) ∧
    (∀ n : StationNo, s.view.getLsbD n.val = true ↔
      n = s.own ∨ s.members.peers[n].state = .member ∨ s.members.peers[n].state = .missing) ∧
    [StationState.config, .listen, .coldstart, .integrate, .active, .departed, .faulted].map StationState.code =
      [0, 1, 2, 3, 4, 5, 6] ∧
    [Quality.sound, .sole, .suspect, .noTime].map Quality.code = [0, 1, 2, 3]

/-- READ_TIME answers OK and the seventeen bytes of round, offset, quality and last-correction record, signed items
in two's complement, and changes nothing but the transfer buffer (sections 3.6, 9.2, 9.6). The quality codes are
those of section 9.6. -/
def Obligations.TimeSnapshot : Prop :=
  ∀ s : State, s.port.transaction = .command → s.settings.profile.inRange = true →
    ∃ buffer, exec .readTime s = .next (s.answering [0x02] buffer) ∧
      buffer.length = 18 ∧
      field buffer 0 1 = 0 ∧
      field buffer 1 5 * s.roundLength + field buffer 6 2 = s.time.count s.settings.profile ∧
      field buffer 6 2 < s.roundLength ∧
      field buffer 8 1 = s.time.quality.code ∧
      (s.time.lastCorrection = none → ∀ k, 9 ≤ k → k ≤ 17 → field buffer k 1 = 0) ∧
      (∀ c, s.time.lastCorrection = some c →
        field buffer 9 1 = 1 + (if c.midpoint.isSome then 2 else 0) + (if c.clamped then 4 else 0) ∧
        field buffer 10 5 = c.round.toNat ∧
        (c.count < 256 → field buffer 15 1 = c.count) ∧
        buffer.getD 16 0 = BitVec.ofInt 8 (c.midpoint.getD 0) ∧
        buffer.getD 17 0 = BitVec.ofInt 8 (c.applied.getD 0)) ∧
      [Quality.sound, .sole, .suspect, .noTime].map Quality.code = [0, 1, 2, 3]

/-- READ_ATTENTION answers OK and the set as it stood, one bit a cause; the set is then empty but for the persistent
causes that hold, and nothing else changes (section 9.5). The bits of the causes are those of section 9.6. -/
def Obligations.AttentionReadAndRestored : Prop :=
  ∀ s : State, s.port.transaction = .command → ∃ t : State, exec .readAttention s = .next t ∧
    t = { s.answering [0x03] t.port.buffer with
      port := { (s.answering [0x03] t.port.buffer).port with attention := t.port.attention } } ∧
    t.port.buffer.length = 3 ∧ field t.port.buffer 0 1 = 0 ∧
    (∀ c : Cause, s.raised c = true ↔ field t.port.buffer 1 2 / 2 ^ c.bit % 2 = 1) ∧
    field t.port.buffer 1 2 < 512 ∧
    (∀ c : Cause, t.raised c = true ↔
      (c = .timeSuspect ∧ s.ctrl.station ≠ .config ∧
        (s.time.quality = .suspect ∨ s.time.quality = .noTime)) ∨
      (c = .duplicate ∧ s.ctrl.station = .faulted)) ∧
    [Cause.stateChange, .memberJoin, .memberLoss, .captureLoss, .journalLoss, .lateRecord, .portTimeout, .timeSuspect,
      .duplicate].map Cause.bit = [0, 1, 2, 3, 4, 5, 6, 7, 8]

/-- READ_PEER answers ARG above 15; ABSENT, counts 0 and every other item none for the own number; and else the entry
of the number from three blocks. Nothing else changes (sections 9.2 and 9.6). The codes of peer state and quality are
those of section 9.6. -/
def Obligations.PeerSnapshot : Prop :=
  ∀ (number : Byte) (s : State), s.port.transaction = .command →
    [PeerState.absent, .candidate, .member, .missing].map PeerState.code = [0, 1, 2, 3] ∧
    [Quality.sound, .sole, .suspect, .noTime].map Quality.code = [0, 1, 2, 3] ∧
    (16 ≤ number.toNat → exec (.readPeer number) s = .next (s.answering [0x04, number] [0x03])) ∧
    (number.toNat = s.own.val → exec (.readPeer number) s =
      .next (s.answering [0x04, number] (0x00 :: number :: List.replicate 27 0x00))) ∧
    (∀ n : StationNo, n.val = number.toNat → n ≠ s.own → ∃ buffer,
      exec (.readPeer number) s = .next (s.answering [0x04, number] buffer) ∧
      buffer.length = 29 ∧ field buffer 0 1 = 0 ∧ field buffer 1 1 = n.val ∧
      field buffer 2 1 = s.members.peers[n].state.code ∧
      field buffer 3 1 = s.members.peers[n].heardCount % 256 ∧
      field buffer 4 1 = s.members.peers[n].missCount % 256 ∧
      (buffer.getD 5 0).getLsbD 0 = s.members.peers[n].lastRound.isSome ∧
      (buffer.getD 5 0).getLsbD 1 = s.members.peers[n].lastView.isSome ∧
      (buffer.getD 5 0).getLsbD 2 = s.members.peers[n].lastQuality.isSome ∧
      (buffer.getD 5 0).getLsbD 3 = s.receipts.entries[n].knownSession.isSome ∧
      (buffer.getD 5 0).getLsbD 4 = s.receipts.entries[n].receivedThrough.isSome ∧
      (buffer.getD 5 0).getLsbD 5 = s.receipts.entries[n].issuedThrough.isSome ∧
      (buffer.getD 5 0).getLsbD 6 = s.receipts.entries[n].watermark.isSome ∧
      (buffer.getD 5 0).getLsbD 7 = s.queue.ackedThrough[n].isSome ∧
      field buffer 6 5 = (s.members.peers[n].lastRound.map (·.toNat)).getD 0 ∧
      field buffer 11 2 = (s.members.peers[n].lastView.map (·.toNat)).getD 0 ∧
      field buffer 13 1 = (s.members.peers[n].lastQuality.map (·.code)).getD 0 ∧
      field buffer 14 2 = (s.receipts.entries[n].knownSession.map (·.toNat)).getD 0 ∧
      field buffer 16 2 = (s.receipts.entries[n].receivedThrough.map (·.toNat)).getD 0 ∧
      field buffer 18 2 = (s.receipts.entries[n].issuedThrough.map (·.toNat)).getD 0 ∧
      field buffer 20 5 = (s.receipts.entries[n].watermark.map (·.round.toNat)).getD 0 ∧
      field buffer 25 2 = (s.receipts.entries[n].watermark.map (·.offset)).getD 0 % 65536 ∧
      field buffer 27 2 = (s.queue.ackedThrough[n].map (·.toNat)).getD 0)

/-- READ_COUNTS answers OK and the thirteen 16-bit counters in the order of section 9.6, and clears none. -/
def Obligations.CountsRead : Prop :=
  ∀ s : State, s.port.transaction = .command → s.countersInRange →
    ∃ buffer, exec .readCounts s = .next (s.answering [0x05] buffer) ∧
      buffer.length = 27 ∧ field buffer 0 1 = 0 ∧
      [field buffer 1 2, field buffer 3 2, field buffer 5 2, field buffer 7 2, field buffer 9 2] =
        [s.line.valid, s.line.garbled, s.line.foreign, s.line.offSlot, s.line.echoFailures] ∧
      [field buffer 11 2, field buffer 13 2, field buffer 15 2, field buffer 17 2] =
        [s.queue.captureLost, s.queue.abandoned, s.receipts.duplicates, s.receipts.gaps] ∧
      [field buffer 19 2, field buffer 21 2, field buffer 23 2, field buffer 25 2] =
        [s.journal.overrun, s.journal.overflow, s.journal.late, s.journal.forced]

/-- CLEAR_COUNTS answers OK in every station state, the thirteen counters become 0, and everything else stands
(R157). -/
def Obligations.CountsCleared : Prop :=
  ∀ s : State, s.port.transaction = .command → ∃ t : State,
    exec .clearCounts s = .next (t.answering [0x31] [0x00]) ∧
    t = { s with
      line := { s.line with valid := 0, garbled := 0, foreign := 0, offSlot := 0, echoFailures := 0 }
      queue := { s.queue with captureLost := 0, abandoned := 0 }
      receipts := { s.receipts with duplicates := 0, gaps := 0 }
      journal := { s.journal with overrun := 0, overflow := 0, late := 0, forced := 0 } } ∧
    (∀ n ∈ t.counters, n = 0)

/-- READ_RECORD and PEEK_RECORD answer EMPTY where the released part is empty, and else OK and the host record of its
head; READ_RECORD pins the head, PEEK_RECORD does not, and nothing else changes (sections 8.8 and 9.2). -/
def Obligations.RecordCopiedAndPinned : Prop :=
  ∀ s : State, s.port.transaction = .command →
    (s.journal.released = [] →
      exec .readRecord s = .next (s.answering [0x10] [0x01]) ∧
      exec .peekRecord s = .next (s.answering [0x11] [0x01])) ∧
    (∀ head rest, s.journal.released = head :: rest →
      exec .readRecord s = .next (State.answering { s with journal := { s.journal with pinned := true } }
        [0x10] (0x00 :: head.hostBytes)) ∧
      exec .peekRecord s = .next (s.answering [0x11] (0x00 :: head.hostBytes)))

/-- The sixteen bytes by which a record reaches the host hold its fields where R168 puts them, kind and quality by the
codes of section 9.6. -/
def Obligations.HostRecordFields : Prop :=
  ∀ r : JournalRecord, r.time.offset < 65536 →
    r.hostBytes.length = 16 ∧
    field r.hostBytes 0 1 = r.origin.val * 16 + r.quality.code * 4 + (if r.late then 2 else 0) +
      (if r.forced then 1 else 0) ∧
    field r.hostBytes 1 2 = (r.session.map (·.toNat)).getD 0 ∧
    field r.hostBytes 3 2 = r.sequence.toNat + (if r.session = none then 32768 else 0) ∧
    field r.hostBytes 5 5 = r.time.round.toNat ∧
    field r.hostBytes 10 2 = r.time.offset ∧
    field r.hostBytes 12 1 = r.source.toNat ∧
    field r.hostBytes 13 1 = r.kind.code ∧
    field r.hostBytes 14 2 = r.value.toNat ∧
    [RecordKind.rise, .fall, .chatterOn, .chatterOff, .hostMark, .captureLost].map RecordKind.code =
      [1, 2, 3, 4, 5, 6] ∧
    [Quality.sound, .sole, .suspect, .noTime].map Quality.code = [0, 1, 2, 3]

/-! ## Commands that act -/

/-- INJECT answers STATE where no records are produced, FULL with 32 records queued or a loss pending, and else OK:
the HOST_MARK joins the queue's tail with the next sequence and the current session, stamped now, and its copy
is inserted into the local Journal (sections 5.7 and 6.2). -/
def Obligations.InjectMakesMarkOrIsRefused : Prop :=
  ∀ (tag : Word16) (s : State), s.port.transaction = .command →
    let producing := ((s.ctrl.station = .listen ∧ s.time.quality ≠ .noTime) ∨ s.ctrl.station = .coldstart ∨
      s.ctrl.station = .integrate ∨ s.ctrl.station = .active) ∧ s.ctrl.leavePending = false
    let full := s.queue.records.length ≥ 32 ∨ s.capture.pendingLoss ≠ none
    let bytes := 0x20 :: bytesOf 2 tag.toNat
    (¬ producing → exec (.inject tag) s = .next (s.answering bytes [0x02])) ∧
    (producing → full → exec (.inject tag) s = .next (s.answering bytes [0x04])) ∧
    (producing → ¬ full → exec (.inject tag) s = .next (State.answering
      (journalInsert
        { origin := s.own, session := s.ctrl.session, sequence := s.queue.nextSequence, time := s.commonTime
          source := 8, kind := .hostMark, value := tag, quality := s.time.quality, late := false
          forced := false, awaiting := s.ctrl.session.isNone }
        { s with queue := { s.queue with
            records := s.queue.records ++
              [{ sequence := s.queue.nextSequence, session := s.ctrl.session, time := s.commonTime
                 source := 8, kind := .hostMark, value := tag, quality := s.time.quality, announced := false }]
            nextSequence := s.queue.nextSequence + 1 } })
      bytes [0x00]))

/-- SET_MASK answers ARG where a bit that stands for no cause is set, and else OK and the mask becomes the argument's
set; ATTN is asserted exactly while set and mask share a cause; masking keeps no cause out of the set; a reset
leaves all nine causes in the mask (R165). The bits of the causes are those of section 9.6. -/
def Obligations.MaskDecidesAttn : Prop :=
  (∀ (causes : Word16) (s : State), s.port.transaction = .command →
    (512 ≤ causes.toNat →
      exec (.setMask causes) s = .next (s.answering (0x30 :: bytesOf 2 causes.toNat) [0x03])) ∧
    (causes.toNat < 512 → ∃ t : State, exec (.setMask causes) s =
        .next (t.answering (0x30 :: bytesOf 2 causes.toNat) [0x00]) ∧
      (∀ c : Cause, t.port.mask.getLsbD c.bit = causes.getLsbD c.bit) ∧
      t = { s with port := { s.port with mask := t.port.mask } })) ∧
  (∀ s : State, s.attn = true ↔ ∃ c : Cause, s.raised c = true ∧ s.port.mask.getLsbD c.bit = true) ∧
  (∀ (c d : Cause) (s : State), (raise c s).raised d = true ↔ s.raised d = true ∨ d = c) ∧
  (∀ s : State, ∃ t u : State, exec .powerOnReset s = .next t ∧ exec .pinReset s = .next u ∧
    ∀ c : Cause, t.port.mask.getLsbD c.bit = true ∧ u.port.mask.getLsbD c.bit = true) ∧
  [Cause.stateChange, .memberJoin, .memberLoss, .captureLoss, .journalLoss, .lateRecord, .portTimeout, .timeSuspect,
    .duplicate].map Cause.bit = [0, 1, 2, 3, 4, 5, 6, 7, 8]

/-- WRITE_PROFILE answers STATE outside CONFIG, ARG where a field is out of the range R172 gives it, with all six
fields kept, and else OK, the six fields replaced together and the signature not computed (R172). -/
def Obligations.ProfileWrittenInRange : Prop :=
  ∀ (slotCount : Byte) (slotLength : Word16) (window limit exclusion : Byte) (guard : Word16) (s : State),
    s.port.transaction = .command →
    let write := Instr.writeProfile slotCount slotLength window limit exclusion guard
    let bytes := [0x40, slotCount] ++ bytesOf 2 slotLength.toNat ++ [window, limit, exclusion] ++ bytesOf 2 guard.toNat
    let out := slotCount.toNat < 4 ∨ slotCount.toNat > 16 ∨
      slotLength.toNat < 300 ∨ slotLength.toNat > 4000 ∨ slotLength.toNat % 50 ≠ 0 ∨
      window.toNat < 2 ∨ window.toNat > 50 ∨
      limit.toNat < 1 ∨ limit.toNat > 20 ∨ limit.toNat > window.toNat ∨
      exclusion.toNat < 1 ∨ exclusion.toNat > 8 ∨ guard.toNat > 1000
    (s.ctrl.station ≠ .config → exec write s = .next (s.answering bytes [0x02])) ∧
    (s.ctrl.station = .config → out → exec write s = .next (s.answering bytes [0x03])) ∧
    (s.ctrl.station = .config → ¬ out → exec write s = .next (State.answering
      { s with settings := { s.settings with profile :=
        { slotCount := slotCount.toNat, slotLength := slotLength.toNat, window := window.toNat
          correctionLimit := limit.toNat, exclusion := exclusion.toNat, guard := guard.toNat } } } bytes [0x00]))

/-- WRITE_INPUT answers STATE outside CONFIG, ARG for an input above 7, a value out of range or an unused bit set, and
else OK: the four settings of the one input are replaced, and nothing else changes (sections 9.4 and 10.4). -/
def Obligations.InputSettingsWritten : Prop :=
  ∀ (number settings debounce chatter : Byte) (s : State), s.port.transaction = .command →
    let write := Instr.writeInput number settings debounce chatter
    let bytes := [0x41, number, settings, debounce, chatter]
    let out := 7 < number.toNat ∨ debounce.toNat < 1 ∨ 64 < debounce.toNat ∨ chatter.toNat = 1 ∨
      settings.toNat / 4 % 32 ≠ 0
    (s.ctrl.station ≠ .config → exec write s = .next (s.answering bytes [0x02])) ∧
    (s.ctrl.station = .config → out → exec write s = .next (s.answering bytes [0x03])) ∧
    (s.ctrl.station = .config → ¬ out → ∃ t : State, exec write s = .next (t.answering bytes [0x00]) ∧
      (∀ i : InputNo, t.settings.inputs[i] = if i.val = number.toNat then
          { edge := match settings.toNat % 4 with
              | 0 => .off
              | 1 => .rise
              | 2 => .fall
              | _ => .both
            invert := decide (128 ≤ settings.toNat)
            debounce := debounce.toNat
            chatter := chatter.toNat }
        else s.settings.inputs[i]) ∧
      t = { s with settings := { s.settings with inputs := t.settings.inputs } })

/-- START answers STATE outside CONFIG and CONFLICT for a station number at or above S, and else OK: the settings
freeze, the signature is the CRC of the eight profile bytes, the receiver turns on, the first sample event is
100 µs away, and a LISTEN episode begins, with the slot timer still stopped (sections 2.3, 9.3, 10.3). -/
def Obligations.StartLeavesConfig : Prop :=
  ∀ s : State, s.port.transaction = .command → s.Consistent →
    (s.ctrl.station ≠ .config → exec .start s = .next (s.answering [0x50] [0x02])) ∧
    (s.ctrl.station = .config → s.settings.profile.slotCount ≤ s.own.val →
      exec .start s = .next (s.answering [0x50] [0x05])) ∧
    (s.ctrl.station = .config → s.own.val < s.settings.profile.slotCount →
      ∃ t : State, exec .start s = .next (t.answering [0x50] [0x00]) ∧
        ListenEntered { s with
          settings := { s.settings with
            frozen := true
            signature := some (crc16 ([BitVec.ofNat 8 s.settings.profile.slotCount] ++
              bytesOf 2 s.settings.profile.slotLength ++
              [BitVec.ofNat 8 s.settings.profile.window, BitVec.ofNat 8 s.settings.profile.correctionLimit,
               BitVec.ofNat 8 s.settings.profile.exclusion] ++ bytesOf 2 s.settings.profile.guard)) }
          line := { s.line with receiverOn := true }
          capture :=
            { trackers := Vector.replicate 8 { state := .unset none 0, windowCount := 0, chattering := false }
              windowCounter := 0, pendingLoss := none, untilSample := some 100 } } t ∧
        t.time.quality = .noTime ∧ t.ctrl.slotTimer = none)

/-- LEAVE answers STATE while leave is pending and in CONFIG, DEPARTED and FAULT; in ACTIVE it answers OK and the
drain begins; in LISTEN, COLDSTART and INTEGRATE it answers OK and the station is DEPARTED at once (section 2.8). -/
def Obligations.LeaveDrainsOrDeparts : Prop :=
  ∀ s : State, s.port.transaction = .command →
    (s.ctrl.leavePending = true ∨ s.ctrl.station = .config ∨ s.ctrl.station = .departed ∨
        s.ctrl.station = .faulted → exec .leave s = .next (s.answering [0x51] [0x02])) ∧
    (s.ctrl.leavePending = false → s.ctrl.station = .active → exec .leave s = .next (State.answering
      { s with ctrl := { s.ctrl with leavePending := true, drainCount := 0, departingOrder := false } }
      [0x51] [0x00])) ∧
    (s.ctrl.leavePending = false → s.ctrl.station = .listen ∨ s.ctrl.station = .coldstart ∨
        s.ctrl.station = .integrate →
      ∃ t : State, exec .leave s = .next (t.answering [0x51] [0x00]) ∧ Retired .departed s t)

/-- REJOIN answers STATE outside DEPARTED, and else OK and a LISTEN episode: the session is none, every tracker UNSET,
the numbering begins again, the horizon is none, and the slot timer resumes where the station has time, with the first
slot start later than common time (sections 2.2 and 2.9). -/
def Obligations.RejoinReturnsToListen : Prop :=
  (∀ (p : Profile) (t : CommonTime), p.inRange = true → t.offset < p.roundLength →
    FirstSlotStartLater p t (slotStartAfter p t)) ∧
  ∀ s : State, s.port.transaction = .command →
    (s.ctrl.station ≠ .departed → exec .rejoin s = .next (s.answering [0x52] [0x02])) ∧
    (s.ctrl.station = .departed → s.Consistent → ∃ t : State,
      exec .rejoin s = .next (t.answering [0x52] [0x00]) ∧
      ListenEntered { s with
        ctrl := { s.ctrl with
          session := none
          slotTimer := if s.time.quality = .noTime then none
            else some (slotStartAfter s.settings.profile s.commonTime) }
        capture := { s.capture with
          trackers := Vector.replicate 8 { state := .unset none 0, windowCount := 0, chattering := false }
          pendingLoss := none }
        queue := { s.queue with
          records := [], nextSequence := 0, issuedThrough := none, ackedThrough := Vector.replicate 16 none }
        journal := { s.journal with
          released := s.journal.released.map fun r => { r with awaiting := false }
          unreleased := s.journal.unreleased.map fun r => { r with awaiting := false }
          horizon := none } } t)

/-! ## Received frames -/

/-- Line activity takes an idle receiver that is on to PREAMBLE, unless the station is sending; the preamble pattern
takes it to FRAME, with the stamp and the local counter, and any other sixteen bits leave it. A burst that ends is
taken as one frame: the receiver returns to IDLE and exactly one of the four class counters increases, saturating, by
the class of the frame; an off-slot frame has no other effect, and no frame changes the settings, the echo failures
or the input levels (sections 1.4 to 1.6). Where an event's condition does not hold nothing happens (log 8). -/
def Obligations.BurstTakenAsOneFrame : Prop :=
  (∀ s : State,
     (s.line.receiverOn = true → s.line.receiver = .idle →
         s.line.transmitter = .idle ∨ (∃ o, s.line.transmitter = .ordered o) →
       exec .burstBegins s = .next { s with line := { s.line with receiver := .preamble } }) ∧
     (s.line.receiverOn = false ∨ s.line.receiver ≠ .idle ∨ (∃ o n, s.line.transmitter = .sendingPreamble o n) ∨
         (∃ o n, s.line.transmitter = .sendingBody o n) → exec .burstBegins s = .next s) ∧
     (s.line.receiver = .preamble → exec (.sofMarkReceived 0x559B) s =
       .next { s with line := { s.line with receiver := .frame s.commonTime s.time.localCounter } }) ∧
     (∀ pattern : Word16, pattern ≠ 0x559B ∨ s.line.receiver ≠ .preamble →
       exec (.sofMarkReceived pattern) s = .next s)) ∧
  (∀ (bytes : List Byte) (order : List FrameAct) (s : State),
     (s.line.receiver = .idle → exec (.frameTaken bytes order) s = .next s) ∧
     (s.line.receiver ≠ .idle → ∃ t : State, exec (.frameTaken bytes order) s = .next t ∧
       t.line.receiver = .idle ∧ t.line.echoFailures = s.line.echoFailures ∧
       t.settings = s.settings ∧ t.pins = s.pins ∧
       (∀ sof localAt, s.line.receiver = .frame sof localAt →
         (∀ f, readFrame s.roundLength bytes = some f →
           (s.settings.signature ≠ some f.signature →
             (t.line.valid, t.line.garbled, t.line.foreign, t.line.offSlot) =
               (s.line.valid, s.line.garbled, min (s.line.foreign + 1) 65535, s.line.offSlot)) ∧
           (s.settings.signature = some f.signature → s.holdsTime = true →
               OffSlotFrame s.settings.profile f sof →
             t = { s with line := { s.line with
               receiver := .idle, offSlot := min (s.line.offSlot + 1) 65535 } }) ∧
           (s.HearsValid bytes f sof localAt →
             (t.line.valid, t.line.garbled, t.line.foreign, t.line.offSlot) =
               (min (s.line.valid + 1) 65535, s.line.garbled, s.line.foreign, s.line.offSlot))) ∧
         (readFrame s.roundLength bytes = none →
           (t.line.valid, t.line.garbled, t.line.foreign, t.line.offSlot) =
             (s.line.valid, min (s.line.garbled + 1) 65535, s.line.foreign, s.line.offSlot))) ∧
       (s.line.receiver = .preamble →
         (t.line.valid, t.line.garbled, t.line.foreign, t.line.offSlot) =
           (s.line.valid, min (s.line.garbled + 1) 65535, s.line.foreign, s.line.offSlot))))

/-- The bytes after a SOF mark read as no frame exactly on the grounds that section 1.5 lists. -/
def Obligations.GarbledExactlyOnItsGrounds : Prop :=
  ∀ (rl : Nat) (bytes : List Byte), readFrame rl bytes = none ↔ GarbledBytes rl bytes

/-- A valid frame is handed to each of the five blocks once, and a slot boundary is taken by each block once, in an
order that begins as the command gives it; the two reports of a round end follow at the latest after all acts. What
each block makes of a frame is its function here, which the statements about that block describe; so it is at a
boundary, where the Time Unit, the Membership Table and the Outbound Queue act at round ends alone, and a report made
there is taken once (sections 1.5 and 2.2). The order as an operand is the model's choice of log 2; that local time runs
to the slot start is that of log 7, and that the two reports are acts of their own is log 19. -/
def Obligations.EachBlockTakesTheEventOnce : Prop :=
  (∀ (bytes : List Byte) (order : List FrameAct) (s : State) (f : Frame) (sof : CommonTime) (localAt : Nat),
    s.HearsValid bytes f sof localAt → ∃ acts : List FrameAct,
      acts.Perm [.controller, .timeUnit, .membership, .outbound, .receipt] ∧
      (order.Nodup → order.take acts.length = acts.take order.length) ∧
      exec (.frameTaken bytes order) s =
        .next (acts.foldl (frameAct (s.integratesOn f) f sof localAt) s.afterValid)) ∧
  (∀ (integrating : Bool) (f : Frame) (sof : CommonTime) (localAt : Nat) (s : State),
    frameAct integrating f sof localAt s .controller = controllerTakeFrame f localAt s ∧
    frameAct integrating f sof localAt s .timeUnit = timeTakeFrame f sof s ∧
    frameAct integrating f sof localAt s .membership = membershipTakeFrame f s ∧
    frameAct integrating f sof localAt s .outbound = outboundTakeFrame f s ∧
    frameAct integrating f sof localAt s .receipt = receiptTakeFrame integrating f s) ∧
  (∀ (order : List BoundaryAct) (s : State) (b : SlotStart), s.ctrl.slotTimer = some b →
    ∃ acts : List BoundaryAct,
      acts.Perm [.controller, .timeUnit, .membership, .outbound, .journal, .correctionReport, .viewReport] ∧
      (order.Nodup → order.take acts.length = acts.take order.length) ∧
      exec (.slotBoundary order) s = .next ((acts ++ [BoundaryAct.correctionReport, BoundaryAct.viewReport]).foldl (boundaryAct b)
        { state := (passTime (s.untilBoundary.getD 0) s).setCtrl
            { (passTime (s.untilBoundary.getD 0) s).ctrl with
              slotTimer := some (SlotStart.next s.settings.profile b) }
          correction := none, viewFailure := false }).state) ∧
  (∀ (b : SlotStart) (run : BoundaryRun),
    boundaryAct b run .controller = { run with state := controllerBoundary b run.state } ∧
    boundaryAct b run .journal = { run with state := journalBoundary run.state } ∧
    (b.slot = 0 →
      boundaryAct b run .timeUnit =
        { run with state := (timeRoundEnd b run.state).1, correction := (timeRoundEnd b run.state).2 } ∧
      boundaryAct b run .outbound = { run with state := outboundRoundEnd run.state } ∧
      ∃ fails : Bool,
        boundaryAct b run .membership = { run with state := membershipRoundEnd b run.state, viewFailure := fails } ∧
        (fails = true ↔ run.state.ctrl.station = .active ∧ run.state.members.entryBoundary ≠ some b ∧
          run.state.members.agree < run.state.members.disagree)) ∧
    (b.slot ≠ 0 → boundaryAct b run .timeUnit = run ∧ boundaryAct b run .membership = run ∧
      boundaryAct b run .outbound = run) ∧
    (run.correction = none → boundaryAct b run .correctionReport = run) ∧
    (∀ r, run.correction = some r → boundaryAct b run .correctionReport =
      { run with state := takeCorrectionReport r run.state, correction := none }) ∧
    (run.viewFailure = false → boundaryAct b run .viewReport = run) ∧
    (run.viewFailure = true → boundaryAct b run .viewReport =
      { run with state := takeViewReport run.state, viewFailure := false }))

/-- The deviation of a frame is its stamped SOF mark minus the nearest of the instants (r, p × L + 20), and r is the
round in which the receiver's time places the slot; a measured BEACON enters its deviation once a round, and no
other frame changes the Time Unit (sections 1.5 and 3.3). That a BEACON with the own number is never measured is the
model's inference of log 22. -/
def Obligations.DeviationFromNearestMark : Prop :=
  (∀ (p : Profile) (station : StationNo) (sof : CommonTime),
    p.inRange = true → station.val < p.slotCount → ∃ r : Int,
      (sof.count p.roundLength : Int) =
        r * p.roundLength + station.val * p.slotLength + 20 + p.deviation station sof ∧
      p.slotRound station sof = BitVec.ofInt 40 r ∧
      ∀ k : Int, |p.deviation station sof| ≤
        |(sof.count p.roundLength : Int) - (k * p.roundLength + station.val * p.slotLength + 20)|) ∧
  (∀ (f : Frame) (sof : CommonTime) (s : State),
    let measured := f.kind = .beacon ∧ f.departing = false ∧ (f.quality = .sound ∨ f.quality = .sole) ∧
      f.station ≠ s.own ∧
      ((s.ctrl.station = .active ∧ s.members.peers[f.station].state = .member) ∨
       (s.ctrl.station = .integrate ∧ ∃ heard, s.ctrl.integration = some (f.round, heard)))
    (measured → (∀ d ∈ s.time.deviations, d.1 ≠ f.station) → timeTakeFrame f sof s = { s with
      time := { s.time with
        deviations := s.time.deviations ++ [(f.station, s.settings.profile.deviation f.station sof)] } }) ∧
    (¬ measured ∨ (∃ d ∈ s.time.deviations, d.1 = f.station) → timeTakeFrame f sof s = s))

/-- A valid frame with the own number takes a station in LISTEN, COLDSTART, INTEGRATE or ACTIVE to FAULT, whatever the
order in which the blocks take it, and has no effect beyond its counter in the other states (section 2.7). -/
def Obligations.OwnNumberLeadsToFault : Prop :=
  ∀ (bytes : List Byte) (order : List FrameAct) (s : State) (f : Frame) (sof : CommonTime) (localAt : Nat),
    s.HearsValid bytes f sof localAt → f.station = s.own →
    (s.ctrl.station = .listen ∨ s.ctrl.station = .coldstart ∨ s.ctrl.station = .integrate ∨
        s.ctrl.station = .active →
      ∃ t : State, exec (.frameTaken bytes order) s = .next t ∧ Retired .faulted s.afterValid t) ∧
    (s.ctrl.station = .config ∨ s.ctrl.station = .departed ∨ s.ctrl.station = .faulted →
      exec (.frameTaken bytes order) s = .next s.afterValid)

/-- A valid frame on which a station in LISTEN or COLDSTART integrates makes the Station Controller enter INTEGRATE
and adopt the sender's time, with the slot timer at the first slot start later than it; where it is a STARTUP that is
the whole effect of FRAME_TAKEN. A valid frame of another number in INTEGRATE sets the beacon-heard flag if it is a
BEACON taken in the integration round, and does nothing else at the controller; one of a higher number in COLDSTART
and one of another number in ACTIVE do nothing there, nor does any in CONFIG, DEPARTED and FAULT (sections 2.2 to 2.6,
3.2). -/
def Obligations.FrameIntegratesStation : Prop :=
  (∀ (p : Profile) (t : CommonTime), p.inRange = true → t.offset < p.roundLength →
    FirstSlotStartLater p t (slotStartAfter p t)) ∧
  (∀ (f : Frame) (localAt : Nat) (s : State), f.station ≠ s.own →
    (∀ round heard, s.ctrl.station = .integrate → s.ctrl.integration = some (round, heard) →
      controllerTakeFrame f localAt s = if f.kind = .beacon ∧ s.commonTime.round = round then
        { s with ctrl := { s.ctrl with integration := some (round, true) } } else s) ∧
    (s.ctrl.station = .coldstart → s.own < f.station → controllerTakeFrame f localAt s = s) ∧
    (s.ctrl.station = .active ∨ s.ctrl.station = .config ∨ s.ctrl.station = .departed ∨
        s.ctrl.station = .faulted → controllerTakeFrame f localAt s = s)) ∧
  (∀ (f : Frame) (localAt : Nat) (s : State),
    (s.ctrl.station = .listen ∧ f.station ≠ s.own ∧ f.station.val < s.settings.profile.slotCount ∧
        f.leavePending = false ∧
        (f.kind = .startup ∨ (f.departing = false ∧ (f.quality = .sound ∨ f.quality = .sole)))) ∨
      (s.ctrl.station = .coldstart ∧ f.station < s.own) →
    IntegrateEntered f (s.time.localCounter - localAt) s (controllerTakeFrame f localAt s)) ∧
  (∀ (bytes : List Byte) (order : List FrameAct) (s : State) (f : Frame) (sof : CommonTime) (localAt : Nat),
    s.HearsValid bytes f sof localAt → f.kind = .startup →
    (s.ctrl.station = .listen ∧ f.station ≠ s.own ∧ f.station.val < s.settings.profile.slotCount ∧
        f.leavePending = false) ∨ (s.ctrl.station = .coldstart ∧ f.station < s.own) →
    ∃ t : State, exec (.frameTaken bytes order) s = .next t ∧
      IntegrateEntered f (s.time.localCounter - localAt) s.afterValid t)

/-- Line activity in LISTEN sets the listen timer back to its full value, eight times in an episode: a garbled frame,
a foreign frame, and a valid frame that is no base for integration. A garbled frame ends a contention in COLDSTART, a
foreign one does not; in the other states both go no further than their counters (sections 1.5, 2.3, 2.4). -/
def Obligations.LineActivityRestartsTimer : Prop :=
  ∀ (bytes : List Byte) (order : List FrameAct) (s : State),
    let garbled := s.line.receiver = .preamble ∨ ∃ sof localAt, s.line.receiver = .frame sof localAt ∧
      readFrame s.roundLength bytes = none
    let foreign := ∃ sof localAt f, s.line.receiver = .frame sof localAt ∧
      readFrame s.roundLength bytes = some f ∧ s.settings.signature ≠ some f.signature
    let afterGarbled : State := { s with line := { s.line with
      receiver := .idle, garbled := min (s.line.garbled + 1) 65535 } }
    let afterForeign : State := { s with line := { s.line with
      receiver := .idle, foreign := min (s.line.foreign + 1) 65535 } }
    let restarted := { s.ctrl with
      listenTimer := some ((2 * s.settings.profile.slotCount + s.own.val) * s.settings.profile.slotLength)
      listenRestarts := s.ctrl.listenRestarts + 1 }
    (garbled → s.ctrl.station = .listen → exec (.frameTaken bytes order) s = .next (
      if s.ctrl.listenRestarts < 8 then { afterGarbled with ctrl := restarted } else afterGarbled)) ∧
    (foreign → s.ctrl.station = .listen → exec (.frameTaken bytes order) s = .next (
      if s.ctrl.listenRestarts < 8 then { afterForeign with ctrl := restarted } else afterForeign)) ∧
    (garbled → s.ctrl.station = .coldstart → ∃ t : State,
      exec (.frameTaken bytes order) s = .next t ∧ ListenEntered afterGarbled t) ∧
    (garbled → s.ctrl.station ≠ .listen → s.ctrl.station ≠ .coldstart →
      exec (.frameTaken bytes order) s = .next afterGarbled) ∧
    (foreign → s.ctrl.station ≠ .listen → exec (.frameTaken bytes order) s = .next afterForeign) ∧
    (∀ (f : Frame) (localAt : Nat), s.ctrl.station = .listen → f.station ≠ s.own →
      s.settings.profile.slotCount ≤ f.station.val ∨ f.leavePending = true ∨
        (f.kind = .beacon ∧ (f.departing = true ∨ f.quality = .suspect ∨ f.quality = .noTime)) →
      controllerTakeFrame f localAt s = if s.ctrl.listenRestarts < 8 then { s with ctrl := restarted } else s)

/-- In ACTIVE the Membership Table marks the sender of a BEACON heard and counts its view as agreeing or disagreeing,
or drops a departing sender at once, with MEMBER_LOSS if it was in the view; in INTEGRATE it marks the senders of the
integration round; a STARTUP, the own number and the other states change nothing (sections 4.2 and 4.4). That a
non-departing BEACON taken in the lead-in round leaves the entry as it is is the model's choice of log 29. -/
def Obligations.BeaconHeard : Prop :=
  ∀ (f : Frame) (s : State),
    let e := s.members.peers[f.station]
    let noted := { e with
      lastRound := some f.round, lastView := some f.view, lastQuality := some f.quality }
    let disagrees := ∃ x : StationNo, x ≠ f.station ∧
      ((x = s.own ∧ s.members.grace = 0 ∧ f.view.getLsbD x.val = false) ∨
       (x ≠ s.own ∧ s.members.peers[x].state = .absent ∧ f.view.getLsbD x.val = true) ∨
       (x ≠ s.own ∧ s.members.peers[x].state = .member ∧ f.view.getLsbD x.val = false))
    let beacon := f.kind = .beacon ∧ f.station ≠ s.own
    (beacon → s.ctrl.station = .active → f.departing = false → ∃ t : State, membershipTakeFrame f s = t ∧
      t = { s with members := { s.members with
        peers := s.members.peers.set f.station { noted with heard := true }
        agree := t.members.agree, disagree := t.members.disagree } } ∧
      (disagrees → t.members.agree = s.members.agree ∧ t.members.disagree = min (s.members.disagree + 1) 255) ∧
      (¬ disagrees → t.members.agree = min (s.members.agree + 1) 255 ∧ t.members.disagree = s.members.disagree)) ∧
    (beacon → s.ctrl.station = .active → f.departing = true → ∃ t : State, membershipTakeFrame f s = t ∧
      t = { s with
        members := { s.members with
          peers := s.members.peers.set f.station
            { noted with state := .absent, heard := false, heardCount := 0, missCount := 0 } }
        port := t.port } ∧
      CausesAdded s t fun c => c = .memberLoss ∧ (e.state = .member ∨ e.state = .missing)) ∧
    (beacon → s.ctrl.station = .integrate → membershipTakeFrame f s =
      if f.departing = true then
        { s with members := { s.members with peers := s.members.peers.set f.station noted } }
      else if s.ctrl.integration.map (·.1) = some f.round then
        { s with members := { s.members with
          peers := s.members.peers.set f.station { noted with heard := true } } }
      else s) ∧
    (¬ beacon ∨ (s.ctrl.station ≠ .active ∧ s.ctrl.station ≠ .integrate) → membershipTakeFrame f s = s)

/-- The Outbound Queue takes from a BEACON of another station its session and its acknowledgement: a changed session
clears the sender's acked-through, and an entry that meets the four conditions of section 6.4 replaces it. In
ACTIVE the removal follows in the same act; in CONFIG, DEPARTED and FAULT nothing changes. -/
def Obligations.AcknowledgementTaken : Prop :=
  ∀ (f : Frame) (s : State), f.kind = .beacon → f.station ≠ s.own →
    let kept := if s.queue.peerSessions[f.station] = none ∨ s.queue.peerSessions[f.station] = some f.session then
      s.queue.ackedThrough[f.station] else none
    let accepts (r : Receipt) : Prop :=
      (∃ x, s.ctrl.session = some x ∧ r.sessionByte.toNat = x.toNat % 256) ∧
      (∃ issued, s.queue.issuedThrough = some issued ∧ (issued - r.through).toNat ≤ 16383) ∧
      (∀ acked, kept = some acked → (r.through - acked).toNat ≤ 16383)
    ∃ acked : Option Sequence,
      (∀ r, f.receipts[s.own] = some r → accepts r → acked = some r.through) ∧
      ((∀ r, f.receipts[s.own] = some r → ¬ accepts r) → acked = kept) ∧
      let noted : State := { s with queue := { s.queue with
        peerSessions := s.queue.peerSessions.set f.station (some f.session)
        ackedThrough := s.queue.ackedThrough.set f.station acked } }
      (s.ctrl.station = .listen ∨ s.ctrl.station = .coldstart ∨ s.ctrl.station = .integrate →
        outboundTakeFrame f s = noted) ∧
      (s.ctrl.station = .active → outboundTakeFrame f s =
        if s.viewPeers = [] then noted else removeWhile noted.ackedByView noted) ∧
      (s.ctrl.station = .config ∨ s.ctrl.station = .departed ∨ s.ctrl.station = .faulted →
        outboundTakeFrame f s = s)

/-- The Receipt Unit processes a BEACON of another number in ACTIVE and INTEGRATE, and as the integrating frame in any
state, and nothing else. The first two steps of processing: a session that differs from the known one resets the
entry, an unknown one is taken and nothing else changes, and an entry whose received-through lies beyond what the
frame has issued is stale and reset, with one gap counted; the rest of the processing goes on from the entry so left
(R112, R113). -/
def Obligations.ReceiptEntryOpened : Prop :=
  (∀ (integrating : Bool) (f : Frame) (s : State),
    let taken := f.kind = .beacon ∧ f.station ≠ s.own ∧
      (s.ctrl.station = .active ∨ s.ctrl.station = .integrate ∨ integrating = true)
    (taken → receiptTakeFrame integrating f s = processBeacon f s) ∧
    (¬ taken → receiptTakeFrame integrating f s = s)) ∧
  ∀ (f : Frame) (s : State),
    let e := s.receipts.entries[f.station]
    let cleared : ReceiptEntry :=
      { knownSession := some f.session, receivedThrough := none, issuedThrough := none, watermark := none }
    let known := if e.knownSession = none ∨ e.knownSession = some f.session then
      { e with knownSession := some f.session } else cleared
    let stale := known.receivedThrough ≠ none ∧ ∀ r i, known.receivedThrough = some r → f.issuedThrough = some i →
      16383 < (i - r).toNat
    (stale → receiptOpening f s = { s with receipts := { s.receipts with
      entries := s.receipts.entries.set f.station cleared
      gaps := min (s.receipts.gaps + 1) 65535 } }) ∧
    (¬ stale → receiptOpening f s = { s with receipts := { s.receipts with
      entries := s.receipts.entries.set f.station known } }) ∧
    processBeacon f s = processBeacon f (receiptOpening f s)

/-- The last step of processing a BEACON takes its issued-through, and its watermark if received-through equals
issued-through and the watermark is later than the one held, which else stands. A processed BEACON without
announcements leaves received-through equal to its issued-through, counts one gap where that corrects a
received-through, takes its watermark if it is later than the one held, and inserts nothing (sections 7.2 to 7.6). -/
def Obligations.EmptyBeaconSettlesEntry : Prop :=
  (∀ (f : Frame) (s : State), f.announcements ≠ [] →
    let u := takeAnnouncements f f.announcements (receiptOpening f s)
    let e := u.receipts.entries[f.station]
    ∃ watermark : Option CommonTime,
      (e.receivedThrough = f.issuedThrough → ∀ w, f.watermark = some w →
        (∀ old, e.watermark = some old → old.earlier w = true) → watermark = some w) ∧
      (e.receivedThrough ≠ f.issuedThrough ∨ f.watermark = none ∨
        (∃ w old, f.watermark = some w ∧ e.watermark = some old ∧ old.earlier w = false) → watermark = e.watermark) ∧
      processBeacon f s = { u with receipts := { u.receipts with
        entries := u.receipts.entries.set f.station
          { e with issuedThrough := f.issuedThrough, watermark := watermark } } }) ∧
  ∀ (f : Frame) (s : State), f.announcements = [] →
    let e := s.receipts.entries[f.station]
    let same := e.knownSession = none ∨ e.knownSession = some f.session
    let received := if same then e.receivedThrough else none
    let held := if same ∧ ¬ (received ≠ none ∧ ∀ r i, received = some r → f.issuedThrough = some i →
      16383 < (i - r).toNat) then e.watermark else none
    ∃ watermark : Option CommonTime,
      (∀ w, f.watermark = some w → (∀ old, held = some old → old.earlier w = true) → watermark = some w) ∧
      ((∀ w, f.watermark = some w → ∃ old, held = some old ∧ old.earlier w = false) → watermark = held) ∧
      processBeacon f s = { s with receipts := { s.receipts with
        entries := s.receipts.entries.set f.station
          { knownSession := some f.session, receivedThrough := f.issuedThrough
            issuedThrough := f.issuedThrough, watermark := watermark }
        gaps := if received = none ∨ received = f.issuedThrough then s.receipts.gaps
          else min (s.receipts.gaps + 1) 65535 } }

/-- An accepted announcement is completed with the frame's origin and session and inserted into the Journal, and its
sequence becomes received-through. A run of announcements with consecutive sequences, against an entry: all are
accepted at a baseline or next; those already received are counted as duplicates and the rest accepted; at a gap the
entry is re-based and all are accepted, or, where the frame's view holds the own number, all are discarded as gaps and
received-through ends just below the first (section 7.5). -/
def Obligations.AnnouncementRun : Prop :=
  (∀ (f : Frame) (w : WireRecord) (s : State), ∃ u : State,
    u = journalInsert
      { origin := f.station, session := some f.session, sequence := w.sequence, time := w.time, source := w.source
        kind := w.kind, value := w.value, quality := w.quality, late := false, forced := false, awaiting := false } s ∧
    acceptAnnouncement f w s = { u with receipts := { s.receipts with
      entries := s.receipts.entries.set f.station
        { s.receipts.entries[f.station] with receivedThrough := some w.sequence } } }) ∧
  ∀ (f : Frame) (first : WireRecord) (rest : List WireRecord) (s : State), s.countersInRange →
    rest.length ≤ 3 →
    (∀ k (h : k < rest.length), rest[k].sequence = first.sequence + BitVec.ofNat 15 (k + 1)) →
    let run := first :: rest
    let accept (ws : List WireRecord) (s : State) := ws.foldl (fun s w => acceptAnnouncement f w s) s
    (s.receipts.entries[f.station].receivedThrough = none → takeAnnouncements f run s = accept run s) ∧
    (∀ r, s.receipts.entries[f.station].receivedThrough = some r →
      let behind := (r + 1 - first.sequence).toNat
      (behind ≤ 16385 → takeAnnouncements f run s = accept (run.drop behind)
        { s with receipts := { s.receipts with
          duplicates := min (s.receipts.duplicates + min behind run.length) 65535 } }) ∧
      (16385 < behind → f.view.getLsbD s.own.val = false → takeAnnouncements f run s = accept run
        { s with receipts := { s.receipts with gaps := min (s.receipts.gaps + 1) 65535 } }) ∧
      (16385 < behind → f.view.getLsbD s.own.val = true → takeAnnouncements f run s =
        { s with receipts := { s.receipts with
          gaps := min (s.receipts.gaps + run.length) 65535
          entries := s.receipts.entries.set f.station
            { s.receipts.entries[f.station] with receivedThrough := some (first.sequence - 1) } } }))

/-! ## The own frame -/

/-- When common time reaches the preamble start of the own slot an ordered transmitter moves to SENDING; a burst under
way is cut off there and what was received of it is taken as a frame. After the last CRC bit the transmitter is IDLE.
Without an order, or a frame being sent, nothing happens (sections 1.1, 1.3, 1.4). The model's choices: the time that
passes (log 7), events that are not due (log 8) and the whole microseconds (log 11). -/
def Obligations.PreambleAndFrameSent : Prop :=
  ∀ s : State,
    (∀ (received : List Byte) (order : List FrameAct) (o : TransmitOrder), s.line.transmitter = .ordered o →
      ∃ (wait untilSof : Nat) (now : State), now = { passTime wait s with
          line := { (passTime wait s).line with transmitter := .sendingPreamble o untilSof } } ∧
        (s.line.receiver = .idle → exec (.preambleStart received order) s = .next now) ∧
        (s.line.receiver ≠ .idle → exec (.preambleStart received order) s = exec (.frameTaken received order) now) ∧
        (∀ d, s.aheadOfPreamble o.round = some d → 0 < s.settings.profile.cycle → untilSof = 4 ∧
          now.time.count s.settings.profile =
            (o.round.toNat * s.roundLength + s.own.val * s.settings.profile.slotLength + 16) %
              s.settings.profile.cycle) ∧
        (s.aheadOfPreamble o.round = none → untilSof = 3 ∧ wait = 0)) ∧
    ((∀ o, s.line.transmitter ≠ .ordered o) → ∀ received order, exec (.preambleStart received order) s = .next s) ∧
    (∀ o n, s.line.transmitter = .sendingBody o n → exec .frameSent s = .next { passTime n s with
      line := { (passTime n s).line with transmitter := .idle } }) ∧
    ((∀ o n, s.line.transmitter ≠ .sendingBody o n) → exec .frameSent s = .next s)

/-- At the SOF mark the frame takes its content from the blocks as they stand then: a STARTUP, or a BEACON, which also
marks the up to four oldest records announced and raises issued-through. The departing BEACON of a station in ACTIVE
takes it to DEPARTED once its content is taken (sections 1.2, 2.8, 6.3, 7.7). The model's choices: the time that
passes to the SOF mark (log 7), what is sent from then on (log 11), and a station no longer in ACTIVE (log 12). -/
def Obligations.SofMarkTakesContent : Prop :=
  ∀ (o : TransmitOrder) (n : Nat) (s : State), s.line.transmitter = .sendingPreamble o n →
    ∃ (f : Frame) (now sent t : State), now = passTime n s ∧ exec .sofMarkSent s = .next t ∧
      f.kind = o.kind ∧ f.station = s.own ∧ s.settings.signature.getD 0 = f.signature ∧
      f.round = now.commonTime.round ∧ f.leavePending = s.ctrl.leavePending ∧ f.quality = s.time.quality ∧
      (o.kind = .startup → f.session = 0 ∧ f.departing = false ∧
        (∀ k : StationNo, f.view.getLsbD k.val = true ↔ k = s.own) ∧ f.issuedThrough = none ∧ f.watermark = none ∧
        (∀ k : StationNo, f.receipts[k] = none) ∧ f.announcements = [] ∧
        sent.queue = s.queue) ∧
      (o.kind = .beacon → f.session = s.ctrl.session.getD 0 ∧ f.departing = o.departing ∧ f.view = s.view ∧
        f.watermark = some now.beaconWatermark ∧
        (∀ k : StationNo, f.receipts[k] = if k = s.own then none else
          s.receipts.entries[k].receivedThrough.map fun q =>
            { sessionByte := BitVec.ofNat 8 ((s.receipts.entries[k].knownSession.getD 0).toNat % 256), through := q }) ∧
        f.announcements = (s.queue.records.take 4).map (fun r =>
          { sequence := r.sequence, time := r.time, source := r.source, kind := r.kind, quality := r.quality
            value := r.value }) ∧
        sent.queue = { s.queue with
          records := ((s.queue.records.take 4).map fun r => { r with announced := true }) ++ s.queue.records.drop 4
          issuedThrough := f.issuedThrough } ∧
        f.issuedThrough = match (s.queue.records.take 4).getLast?, s.queue.issuedThrough with
          | none, issued => issued
          | some r, none => some r.sequence
          | some r, some issued =>
            if r.sequence ≠ issued ∧ (r.sequence - issued).toNat ≤ 16383 then some r.sequence else some issued) ∧
      sent = { now with
        queue := sent.queue
        line := { now.line with
          transmitter := .sendingBody o ((74 + 13 * f.announcements.length) * 16 / 10)
          echo := some (o.kind, [0x55, 0x9B] ++ f.bytes) } } ∧
      (o.kind = .beacon → o.departing = true → s.ctrl.station = .active → Retired .departed sent t) ∧
      (o.kind = .startup ∨ o.departing = false ∨ s.ctrl.station ≠ .active → t = sent)

/-- The watermark of a BEACON is at or before common time, before the stamp of every candidate of an input whose edge
is not NONE, of a pending loss, and of every queued record that stays unannounced after the selection; and it is no
earlier than the earliest of those, minus 1 µs (sections 5.9 and 6.3). Stamps at (0, 0) are left out there: what lies
1 µs before them no rule states (log 4). With them too its offset lies in the round, as section 9.6 asks. -/
def Obligations.WatermarkCoversUnannounced : Prop :=
  ∀ s : State,
    let covered : CommonTime → Prop := fun t =>
      (∃ (i : InputNo) (level : Bool) (count : Nat) (first : Stamp),
        s.capture.trackers[i].state = .candidate level count first ∧ s.settings.inputs[i].edge ≠ .off ∧
          first.time = t) ∨
      (∃ l, s.capture.pendingLoss = some l ∧ l.first.time = t) ∨
      (∃ r ∈ s.queue.records.drop 4, r.announced = false ∧ r.time = t)
    (0 < s.roundLength → (∀ t, covered t → t.offset < s.roundLength) → s.beaconWatermark.offset < s.roundLength) ∧
    ((∀ t, covered t → t ≠ { round := 0, offset := 0 }) →
      (∀ t, covered t → s.beaconWatermark.earlier t = true) ∧
      s.commonTime.earlier s.beaconWatermark = false ∧
      (s.beaconWatermark = s.commonTime ∨
        ∃ t, covered t ∧ t.minus s.roundLength 1 = some s.beaconWatermark))

/-- The echo of an own frame is good when every byte matches and the line falls idle in time; a failure is counted. A
failed STARTUP ends the contention in COLDSTART; in ACTIVE a good BEACON ends the echo-failure run and the third
failure in a row reintegrates the station; in every other case nothing else happens (sections 1.3, 2.4, 2.6). -/
def Obligations.EchoReport : Prop :=
  ∀ (heard sent : List Byte) (idle : Bool) (kind : FrameKind) (s : State), s.line.echo = some (kind, sent) →
    let good := heard = sent ∧ idle = true
    let passed : State := { s with line := { s.line with echo := none } }
    let failed : State := { s with line := { s.line with
      echo := none, echoFailures := min (s.line.echoFailures + 1) 65535 } }
    (good → exec (.echoResult heard idle) s = .next (
      if s.ctrl.station = .active ∧ kind = .beacon then
        { passed with ctrl := { s.ctrl with echoRun := 0 } } else passed)) ∧
    (¬ good → s.ctrl.station = .coldstart → kind = .startup → ∃ t : State,
      exec (.echoResult heard idle) s = .next t ∧ ListenEntered failed t) ∧
    (¬ good → s.ctrl.station = .active → kind = .beacon → s.ctrl.echoRun < 2 →
      exec (.echoResult heard idle) s =
        .next { failed with ctrl := { s.ctrl with echoRun := s.ctrl.echoRun + 1 } }) ∧
    (¬ good → s.ctrl.station = .active → kind = .beacon → 2 ≤ s.ctrl.echoRun → ∃ t : State,
      exec (.echoResult heard idle) s = .next t ∧
        ListenEntered { failed with ctrl := { s.ctrl with
          echoRun := 0, clampedRun := 0, departingOrder := false } } t) ∧
    (¬ good → ¬ (s.ctrl.station = .coldstart ∧ kind = .startup) → ¬ (s.ctrl.station = .active ∧ kind = .beacon) →
      exec (.echoResult heard idle) s = .next failed)

/-! ## Slot boundaries and round ends -/

/-- A slot boundary that ends no round, taken in ACTIVE: whatever the order of the blocks, common time is at the slot
start, the slot timer is at the next one, a BEACON is ordered if the slot is the own, and the Journal takes a
release step: the horizon moves to the candidate if that is later, and every unreleased record at or before it is
released in key order. That step is what the Journal makes of every boundary it takes in ACTIVE, one that ends a round
among them, and in the other states it makes nothing of it. In LISTEN and INTEGRATE, and in COLDSTART but at the own slot of the round after R0, only the
slot timer moves (sections 2.2, 2.4, 2.6, 8.4; that the time passes is the model's choice of log 7). -/
def Obligations.BoundaryInsideRound : Prop :=
  (∀ (b : SlotStart) (s : State),
    (∀ (correction : Option CorrectionReport) (viewFailure : Bool),
      boundaryAct b { state := s, correction := correction, viewFailure := viewFailure } .journal =
        { state := journalBoundary s, correction := correction, viewFailure := viewFailure }) ∧
    journalBoundary s = { s with journal := (journalBoundary s).journal } ∧
    (s.ctrl.station ≠ .active → journalBoundary s = s) ∧
    (s.ctrl.station = .active → StepTaken s.releaseCandidate s.journal (journalBoundary s).journal)) ∧
  ∀ (order : List BoundaryAct) (b : SlotStart) (s : State), s.ctrl.slotTimer = some b → b.slot ≠ 0 →
    ∃ (now t : State) (wait : Nat), now = { passTime wait s with
        ctrl := { (passTime wait s).ctrl with
          slotTimer := some (if b.slot + 1 < s.settings.profile.slotCount then { b with slot := b.slot + 1 }
            else { round := b.round + 1, slot := 0 }) } } ∧
      exec (.slotBoundary order) s = .next t ∧
      (∀ d, s.ahead (b.count s.settings.profile) s.settings.profile.slotLength = some d →
        0 < s.settings.profile.cycle →
        now.time.count s.settings.profile =
          (b.round.toNat * s.roundLength + b.slot * s.settings.profile.slotLength) % s.settings.profile.cycle) ∧
      (s.ctrl.station = .active →
        t = { now with line := { now.line with transmitter := t.line.transmitter }, journal := t.journal } ∧
        (b.slot ≠ s.own.val → t.line = now.line) ∧
        (b.slot = s.own.val → (∀ o n, now.line.transmitter ≠ .sendingPreamble o n) →
          (∀ o n, now.line.transmitter ≠ .sendingBody o n) → t.line.transmitter =
            .ordered { kind := .beacon, departing := s.ctrl.departingOrder, round := b.round }) ∧
        StepTaken now.releaseCandidate s.journal t.journal) ∧
      (s.ctrl.station = .listen ∨ s.ctrl.station = .integrate → t = now) ∧
      (s.ctrl.station = .coldstart → b.slot ≠ s.own.val ∨ (∀ r0, s.ctrl.contention = some r0 → r0 + 1 ≠ b.round) →
        t = now)

/-- The candidate of a release step lies G before the earliest of the own watermark and the accepted watermarks of the
peers in the view, and there is none where a peer in the view has none or the subtraction would borrow below round 0
(section 8.4). -/
def Obligations.ReleaseCandidateIsBounded : Prop :=
  ∀ s : State,
    let inView : StationNo → Prop := fun p =>
      p ≠ s.own ∧ (s.members.peers[p].state = .member ∨ s.members.peers[p].state = .missing)
    ((∃ p, inView p ∧ s.receipts.entries[p].watermark = none) → s.releaseCandidate = none) ∧
    ((∀ p, inView p → s.receipts.entries[p].watermark ≠ none) → ∃ earliest : CommonTime,
      (earliest = s.ownWatermark ∨ ∃ p, inView p ∧ s.receipts.entries[p].watermark = some earliest) ∧
      s.ownWatermark.earlier earliest = false ∧
      (∀ p w, inView p → s.receipts.entries[p].watermark = some w → w.earlier earliest = false) ∧
      (s.settings.profile.guard ≤ earliest.offset → s.releaseCandidate =
        some { earliest with offset := earliest.offset - s.settings.profile.guard }) ∧
      (earliest.offset < s.settings.profile.guard → earliest.round ≠ 0 → s.releaseCandidate =
        some { round := earliest.round - 1, offset := earliest.offset + s.roundLength - s.settings.profile.guard }) ∧
      (earliest.offset < s.settings.profile.guard → earliest.round = 0 → s.releaseCandidate = none))

/-- What the Station Controller makes of a boundary at which it changes state: a contention that reaches the own slot
in round R0 + 1 enters ACTIVE and orders the first BEACON; an integration round that ends enters ACTIVE, with the
heard peers admitted, and orders the first BEACON, or enters LISTEN where no BEACON was heard. With a leave pending
the round end then counts in the new state: in ACTIVE the queue is tested and the BEACON ordered may be the departing
one; in LISTEN the eighth takes the station to DEPARTED (sections 2.4 to 2.6, 2.8, 4.5; for station 0 in COLDSTART,
log 10). -/
def Obligations.EntryAtBoundary : Prop :=
  ∀ (b : SlotStart) (s : State), s.line.transmitter = .idle ∨ (∃ o, s.line.transmitter = .ordered o) →
    let withOrder (u : State) : State := { u with line := { u.line with
      transmitter := .ordered { kind := .beacon, departing := u.ctrl.departingOrder, round := b.round } } }
    let drained (u : State) : State := { u with ctrl := { u.ctrl with
      drainCount := min 8 (s.ctrl.drainCount + 1)
      departingOrder := if s.queue.records = [] ∨ 7 ≤ s.ctrl.drainCount then true else s.ctrl.departingOrder } }
    (s.ctrl.station = .coldstart → b.slot = s.own.val →
      (∃ r0, s.ctrl.contention = some r0 ∧ r0 + 1 = b.round) →
      ∃ u : State, ActiveEntered false b s u ∧
        (s.ctrl.leavePending = false ∨ b.slot ≠ 0 → controllerBoundary b s = withOrder u) ∧
        (s.ctrl.leavePending = true → b.slot = 0 → controllerBoundary b s = withOrder (drained u))) ∧
    (s.ctrl.station = .integrate → b.slot = 0 →
      (∃ round, s.ctrl.integration = some (round, true) ∧ round + 1 = b.round) →
      ∃ u : State, ActiveEntered true b s u ∧
        (s.ctrl.leavePending = false → controllerBoundary b s = withOrder u) ∧
        (s.ctrl.leavePending = true → controllerBoundary b s = withOrder (drained u))) ∧
    (s.ctrl.station = .integrate → b.slot = 0 →
      (∃ round, s.ctrl.integration = some (round, false) ∧ round + 1 = b.round) →
      ∃ u : State, ListenEntered s u ∧
        (s.ctrl.leavePending = false → controllerBoundary b s = u) ∧
        (s.ctrl.leavePending = true → s.ctrl.drainCount < 7 →
          controllerBoundary b s = { u with ctrl := { u.ctrl with drainCount := s.ctrl.drainCount + 1 } }) ∧
        (s.ctrl.leavePending = true → 7 ≤ s.ctrl.drainCount → Retired .departed u (controllerBoundary b s)))

/-- The leave drain at a round end at which no entry is due: the count rises, to at most 8; in ACTIVE the departing
order is set when the queue is empty or the count is 8; in LISTEN, COLDSTART and INTEGRATE the round end at which the
count is 8 takes the station to DEPARTED, one at which it stood at 8 before among them (log 20). In ACTIVE a station
whose own slot is slot 0 then orders its BEACON; else nothing changes. The reports of a round end, acts of their own
(log 19): in ACTIVE the third clamped correction in a row and a view-check failure reintegrate the station, and any
other correction report ends the run; in the other states no report has an effect. A failure is reported exactly when
more BEACONs disagreed than agreed (sections 2.4 to 2.6, 2.8, 4.4). -/
def Obligations.RoundEndAtController : Prop :=
  (∀ (b : SlotStart) (s : State), b.slot = 0 →
     (s.ctrl.station = .integrate → ∀ round heard, s.ctrl.integration = some (round, heard) → round + 1 ≠ b.round) →
     (s.ctrl.station = .coldstart → s.own.val = 0 → ∀ r0, s.ctrl.contention = some r0 → r0 + 1 ≠ b.round) →
     let drained : State := if s.ctrl.leavePending = true then { s with ctrl := { s.ctrl with
         drainCount := min 8 (s.ctrl.drainCount + 1)
         departingOrder := if s.queue.records = [] ∨ 7 ≤ s.ctrl.drainCount then true else s.ctrl.departingOrder } }
       else s
     (s.ctrl.station = .active → s.own.val ≠ 0 → controllerBoundary b s = drained) ∧
     (s.ctrl.station = .active → s.own.val = 0 →
       s.line.transmitter = .idle ∨ (∃ o, s.line.transmitter = .ordered o) →
       controllerBoundary b s = { drained with line := { s.line with
         transmitter := .ordered
           { kind := .beacon, departing := drained.ctrl.departingOrder, round := b.round } } }) ∧
     (s.ctrl.station ≠ .active → s.ctrl.leavePending = false → controllerBoundary b s = s) ∧
     (s.ctrl.leavePending = true → s.ctrl.station = .listen ∨ s.ctrl.station = .coldstart ∨
         s.ctrl.station = .integrate →
       (s.ctrl.drainCount < 7 → controllerBoundary b s =
         { s with ctrl := { s.ctrl with drainCount := s.ctrl.drainCount + 1 } }) ∧
       (7 ≤ s.ctrl.drainCount → Retired .departed s (controllerBoundary b s)))) ∧
  (∀ s : State,
     let cleared : State := { s with ctrl := { s.ctrl with echoRun := 0, clampedRun := 0, departingOrder := false } }
     (s.ctrl.station ≠ .active → ∀ r, takeCorrectionReport r s = s ∧ takeViewReport s = s) ∧
     (s.ctrl.station = .active →
       (s.ctrl.clampedRun < 2 → takeCorrectionReport .clamped s =
         { s with ctrl := { s.ctrl with clampedRun := s.ctrl.clampedRun + 1 } }) ∧
       (2 ≤ s.ctrl.clampedRun → ListenEntered cleared (takeCorrectionReport .clamped s)) ∧
       (∀ r, r ≠ .clamped → takeCorrectionReport r s = { s with ctrl := { s.ctrl with clampedRun := 0 } }) ∧
       ListenEntered cleared (takeViewReport s)) ∧
     (∀ (b : SlotStart) (r : Option CorrectionReport) (v : Bool), b.slot = 0 → s.ctrl.station = .active →
       s.members.entryBoundary ≠ some b →
       ((boundaryAct b { state := s, correction := r, viewFailure := v } .membership).viewFailure = true ↔
         s.members.agree < s.members.disagree)))

/-- The round-end evaluation in ACTIVE moves each peer by its state and its heard mark as the table of R64 gives,
clears the marks and the counts, lowers the grace count and sets the causes; at the entry boundary and outside ACTIVE
it does nothing (R64). -/
def Obligations.TableEvaluated : Prop :=
  ∀ (b : SlotStart) (s : State),
    (s.ctrl.station ≠ .active ∨ s.members.entryBoundary = some b → membershipRoundEnd b s = s) ∧
    (s.ctrl.station = .active → s.members.entryBoundary ≠ some b → ∃ t : State, membershipRoundEnd b s = t ∧
      let x := s.settings.profile.exclusion
      (∀ n : StationNo,
        let e := s.members.peers[n]
        (e.state = .absent → e.heard = true →
          t.members.peers[n] = { e with state := .candidate, heardCount := 1, heard := false }) ∧
        (e.state = .absent → e.heard = false → t.members.peers[n] = e) ∧
        (e.state = .candidate → e.heard = true →
          t.members.peers[n] = { e with state := .member, heardCount := 2, heard := false }) ∧
        (e.state = .candidate → e.heard = false →
          t.members.peers[n] = { e with state := .absent, heardCount := 0 }) ∧
        (e.state = .member → e.heard = true → t.members.peers[n] = { e with missCount := 0, heard := false }) ∧
        (e.state = .member → e.heard = false → x = 1 →
          t.members.peers[n] = { e with state := .absent, heardCount := 0 }) ∧
        (e.state = .member → e.heard = false → x ≠ 1 →
          t.members.peers[n] = { e with state := .missing, missCount := 1 }) ∧
        (e.state = .missing → e.heard = true →
          t.members.peers[n] = { e with state := .member, missCount := 0, heard := false }) ∧
        (e.state = .missing → e.heard = false → e.missCount + 1 = x →
          t.members.peers[n] = { e with state := .absent, heardCount := 0, missCount := 0 }) ∧
        (e.state = .missing → e.heard = false → e.missCount + 1 ≠ x →
          t.members.peers[n] = { e with missCount := e.missCount + 1 })) ∧
      (t.members.agree = 0 ∧ t.members.disagree = 0 ∧ t.members.grace = s.members.grace - 1 ∧
        t.members.entryBoundary = s.members.entryBoundary) ∧
      CausesAdded s t (fun c =>
        (c = .memberJoin ∧ ∃ n : StationNo, s.members.peers[n].state = .candidate ∧
          t.members.peers[n].state = .member) ∨
        (c = .memberLoss ∧ ∃ n : StationNo,
          (s.members.peers[n].state = .member ∨ s.members.peers[n].state = .missing) ∧
          t.members.peers[n].state = .absent)) ∧
      t = { s with members := t.members, port := t.port })

/-- A round end taken by the Time Unit while the slot timer runs: the correction is minus the midpoint, bounded by CL;
a positive one makes common time jump forward at once, a negative one sets the hold count; the record, the quality and
the report follow, and the deviation list is empty. The round end that starts the integration round makes no
correction and empties the list, and with the slot timer stopped there is none (sections 3.3 to 3.5). -/
def Obligations.RoundEndCorrects : Prop :=
  ∀ (b : SlotStart) (s : State), 0 < s.settings.profile.cycle →
    let limit : Int := s.settings.profile.correctionLimit
    let m := midpoint (s.time.deviations.map (·.2))
    (s.ctrl.slotTimer = none → timeRoundEnd b s = (s, none)) ∧
    (s.ctrl.slotTimer ≠ none → s.ctrl.station = .integrate → (∃ heard, s.ctrl.integration = some (b.round, heard)) →
      timeRoundEnd b s = ({ s with time := { s.time with deviations := [] } }, some .noCorrection)) ∧
    (s.ctrl.slotTimer ≠ none →
        ¬ (s.ctrl.station = .integrate ∧ ∃ heard, s.ctrl.integration = some (b.round, heard)) →
      ∃ (t : State) (report : CorrectionReport), timeRoundEnd b s = (t, some report) ∧
        (m = none → t.time.holdCount = s.time.holdCount ∧
          t.time.count s.settings.profile = s.time.count s.settings.profile ∧
          t.time.lastCorrection = some { round := b.round - 1, count := s.time.deviations.length
                                         midpoint := none, applied := none, clamped := false } ∧
          report = .noCorrection) ∧
        (∀ mid, m = some mid → ∃ c : Int, c = max (-limit) (min limit (-mid)) ∧
          (0 < c → t.time.holdCount = s.time.holdCount ∧ t.time.count s.settings.profile =
            (s.time.count s.settings.profile + c.natAbs) % s.settings.profile.cycle) ∧
          (c < 0 → t.time.holdCount = c.natAbs ∧
            t.time.count s.settings.profile = s.time.count s.settings.profile) ∧
          (c = 0 → t.time.holdCount = s.time.holdCount ∧
            t.time.count s.settings.profile = s.time.count s.settings.profile) ∧
          t.time.lastCorrection = some { round := b.round - 1, count := s.time.deviations.length
                                         midpoint := some mid, applied := some c
                                         clamped := decide (limit < |mid|) } ∧
          report = if limit < |mid| then .clamped else .notClamped) ∧
        t.time.localCounter = s.time.localCounter ∧ t.time.deviations = [] ∧
        t.time.quality = (if s.time.quality = .noTime then .noTime
          else if s.ctrl.station ≠ .active then .suspect
          else if m = none then .sole
          else if report = .clamped then .suspect else .sound) ∧
        CausesAdded s t (fun c => (c = .timeSuspect ∧ t.timeSuspect = true) ∨
          (c = .duplicate ∧ s.ctrl.station = .faulted)) ∧
        t = { s with time := t.time, port := t.port })

/-- The midpoint is the sum of the greatest and the least kept deviation divided by 2 and truncated toward zero, the
kept ones being those left when 0, 1 or 2 are trimmed at each end of the list in order; only an empty list has none.
It tolerates as many wrong deviations as are trimmed at each end: if all but that many lie in a range, it lies in that
range too (section 3.4). -/
def Obligations.MidpointToleratesWrongDeviations : Prop :=
  (∀ deviations ordered : List Int, ordered.Perm deviations → ordered.Pairwise (· ≤ ·) →
    let trimmed := if deviations.length ≤ 2 then 0 else if deviations.length ≤ 6 then 1 else 2
    ∀ least greatest, ordered[trimmed]? = some least →
      ordered[deviations.length - 1 - trimmed]? = some greatest →
      midpoint deviations = some (Int.tdiv (greatest + least) 2)) ∧
  ∀ (deviations : List Int) (lo hi : Int),
    (deviations = [] → midpoint deviations = none) ∧
    (deviations ≠ [] →
      (deviations.filter fun d => decide (d < lo ∨ hi < d)).length ≤
        (if deviations.length ≤ 2 then 0 else if deviations.length ≤ 6 then 1 else 2) →
      ∃ m, midpoint deviations = some m ∧ lo ≤ m ∧ m ≤ hi)

/-- The removal of records from the head of the queue at a round end in ACTIVE: those that every peer in the view has
acknowledged, or, with no peer in the view, those announced; and where any goes while a loss is pending, the
CAPTURE_LOST record joins the queue in the same act (sections 5.8 and 6.5). -/
def Obligations.RoundEndRemovesRecords : Prop :=
  ∀ s : State,
    let inView : StationNo → Prop := fun p =>
      p ≠ s.own ∧ (s.members.peers[p].state = .member ∨ s.members.peers[p].state = .missing)
    let goes : QueuedRecord → Prop := fun r =>
      ((∃ p, inView p) ∧ ∀ p, inView p → ∃ q, s.queue.ackedThrough[p] = some q ∧ (q - r.sequence).toNat ≤ 16383) ∨
      ((¬ ∃ p, inView p) ∧ r.announced = true)
    (s.ctrl.station ≠ .active → outboundRoundEnd s = s) ∧
    (s.ctrl.station = .active → ∃ gone rest : List QueuedRecord, s.queue.records = gone ++ rest ∧
      (∀ r ∈ gone, goes r) ∧ (∀ r, rest.head? = some r → ¬ goes r) ∧
      let removed : State := { s with queue := { s.queue with records := rest } }
      (gone = [] ∨ s.capture.pendingLoss = none → outboundRoundEnd s = removed) ∧
      (∀ l, gone ≠ [] → s.capture.pendingLoss = some l → outboundRoundEnd s =
        journalInsert
          { origin := s.own, session := s.ctrl.session, sequence := s.queue.nextSequence, time := l.first.time
            source := 9, kind := .captureLost, value := BitVec.ofNat 16 l.count, quality := l.first.quality
            late := false, forced := false, awaiting := s.ctrl.session.isNone }
          { removed with
            capture := { s.capture with pendingLoss := none }
            queue := { s.queue with
              records := rest ++ [{ sequence := s.queue.nextSequence, session := s.ctrl.session
                                    time := l.first.time, source := 9, kind := .captureLost
                                    value := BitVec.ofNat 16 l.count, quality := l.first.quality
                                    announced := false }]
              nextSequence := s.queue.nextSequence + 1 } }))

/-- The listen timer of a station in LISTEN runs out and it enters COLDSTART: common time is the start of the own slot
in round R0, which is 0 without time and else the round after the current one, a STARTUP is ordered for it, and the
next boundary is the slot start after it (sections 2.3 and 3.2; that the time passes is the model's choice of log 7).
In the other states the event does nothing (log 8). -/
def Obligations.ListenExpiryColdstarts : Prop :=
  ∀ s : State, s.Consistent →
    (s.ctrl.station ≠ .listen → exec .listenTimerExpiry s = .next s) ∧
    (∀ wait, s.ctrl.station = .listen → s.ctrl.listenTimer = some wait → s.line.transmitter = .idle →
      ∃ (now t : State) (r0 : Round), now = passTime wait s ∧ exec .listenTimerExpiry s = .next t ∧
        r0 = (if s.time.quality = .noTime then 0 else now.commonTime.round + 1) ∧
        t.time.count s.settings.profile = r0.toNat * s.roundLength + s.own.val * s.settings.profile.slotLength ∧
        t.ctrl = { now.ctrl with
          station := .coldstart
          listenTimer := none
          contention := some r0
          slotTimer := some (if s.own.val + 1 < s.settings.profile.slotCount
            then { round := r0, slot := s.own.val + 1 } else { round := r0 + 1, slot := 0 }) } ∧
        t.line = { now.line with transmitter := .ordered { kind := .startup, departing := false, round := r0 } } ∧
        t.time = { now.time with
          correctionOffset := t.time.correctionOffset, holdCount := 0, deviations := [], lastCorrection := none
          quality := .suspect } ∧
        CausesAdded now t (fun c => c = .stateChange ∨ c = .timeSuspect) ∧
        t = { now with ctrl := t.ctrl, line := t.line, time := t.time, port := t.port })

/-! ## Samples -/

/-- A sample event reads all inputs at once, 100 µs of local time after the one before: every tracker takes its level,
inverted where set; an accepted change counts in the window and may start chattering; the sample that brings the
window counter to 10,000 ends the window. Only the Capture Unit, and by the records made the queue, the Journal and
the attention set, change (sections 5.2, 5.3, 5.5). That the time to the sample passes is the model's choice of log 7;
WINDOW_END is that last sample, and nothing before it (log 14). -/
def Obligations.SampleMovesTrackers : Prop :=
  ∀ (levels : BitVec 8) (wait : Nat) (s : State), s.capture.untilSample = some wait →
    let ends := 10000 ≤ s.capture.windowCounter + 1
    ∃ now t : State, now = passTime wait s ∧ exec (.sampleEvent levels) s = .next t ∧
      (ends → exec (.windowEnd levels) s = .next t) ∧ (¬ ends → exec (.windowEnd levels) s = .next s) ∧
      t.capture.untilSample = some 100 ∧
      t.capture.windowCounter = (if ends then 0 else s.capture.windowCounter + 1) ∧
      (∀ i : InputNo,
        let c := s.settings.inputs[i]
        let tracker := s.capture.trackers[i]
        let level := if c.invert then !levels.getLsbD i.val else levels.getLsbD i.val
        let moved := tracker.state.sample c.debounce { time := now.commonTime, quality := s.time.quality } level
        let counted := if moved.2.isSome then min (tracker.windowCount + 1) 255 else tracker.windowCount
        let overlaid := 2 ≤ c.chatter ∧ c.edge ≠ .off
        let chatters := tracker.chattering = true ∨ (moved.2.isSome = true ∧ overlaid ∧ counted = c.chatter)
        t.capture.trackers[i].state = moved.1 ∧
        t.capture.trackers[i].windowCount = (if ends then 0 else counted) ∧
        (t.capture.trackers[i].chattering = true ↔ chatters ∧ ¬ (ends ∧ overlaid ∧ counted = 0))) ∧
      t = { now with capture := t.capture, queue := t.queue, journal := t.journal, port := t.port }

/-- A tracker leaves UNSET after D equal samples, a sample at the other level beginning the run again at 1; from
STABLE it accepts a change at the D-th sample in a row at the other level, dated by the first of them, and a sample at
the stable level before that cancels it (section 5.3). -/
def Obligations.TrackerAcceptsAfterDebounce : Prop :=
  ∀ (debounce : Nat) (level : Bool) (stamps : Nat → Stamp), 1 ≤ debounce →
    (∀ (k : Nat), 1 ≤ k → k < debounce →
      (List.range k).foldl (fun t i => (TrackerState.sample debounce (stamps i) level t).1) (.unset none 0) =
        .unset (some level) k ∧
      (List.range k).foldl (fun t i => (TrackerState.sample debounce (stamps i) level t).1) (.stable (!level)) =
        .candidate (!level) k (stamps 0) ∧
      TrackerState.sample debounce (stamps k) (!level) (.candidate (!level) k (stamps 0)) =
        (.stable (!level), none)) ∧
    (2 ≤ debounce →
      TrackerState.sample debounce (stamps (debounce - 1)) level (.unset (some level) (debounce - 1)) =
        (.stable level, none) ∧
      TrackerState.sample debounce (stamps (debounce - 1)) level (.candidate (!level) (debounce - 1) (stamps 0)) =
        (.stable level, some (stamps 0, level))) ∧
    (debounce = 1 →
      TrackerState.sample debounce (stamps 0) level (.unset none 0) = (.stable level, none) ∧
      TrackerState.sample debounce (stamps 0) level (.stable (!level)) =
        (.stable level, some (stamps 0, level))) ∧
    TrackerState.sample debounce (stamps 0) level (.stable level) = (.stable level, none) ∧
    (∀ n : Nat, TrackerState.sample debounce (stamps 0) level (.unset (some (!level)) n) =
      if debounce = 1 then (.stable level, none) else (.unset (some level) 1, none))

/-- The records of one sample event are handed to the Outbound Queue in input order, each as a separate act, at most
one an input: a RISE, FALL or CHATTER_ON for an accepted change, or a CHATTER_OFF at the end of a window, dated and
valued as sections 5.3 to 5.6 give. A record that finds 32 records queued or a loss pending is lost and counted, with
CAPTURE_LOSS where the loss begins; any other is queued and copied into the Journal (sections 5.8 and 6.2). -/
def Obligations.SampleRecordsQueuedOrLost : Prop :=
  (∀ (levels : BitVec 8) (s : State), ∃ drafts : InputNo → Option Draft,
    (∀ i : InputNo,
      let c := s.settings.inputs[i]
      let tracker := s.capture.trackers[i]
      let source := BitVec.ofNat 8 i.val
      let moved := tracker.state.sample c.debounce s.stampNow (c.seen (levels.getLsbD i.val))
      let overlaid := 2 ≤ c.chatter ∧ c.edge ≠ .off
      (∀ first level, moved.2 = some (first, level) →
        let begins := overlaid ∧ tracker.chattering = false ∧ min (tracker.windowCount + 1) 255 = c.chatter
        (s.producing = false ∨ first.quality = .noTime → drafts i = none) ∧
        (s.producing = true → first.quality ≠ .noTime → begins → drafts i = some
          { stamp := first, source := source, kind := .chatterOn, value := if level then 1 else 0 }) ∧
        (s.producing = true → first.quality ≠ .noTime → ¬ begins → tracker.chattering = true → drafts i = none) ∧
        (s.producing = true → first.quality ≠ .noTime → ¬ begins → tracker.chattering = false →
          drafts i = if (level = true ∧ c.edge = .rise) ∨ (level = false ∧ c.edge = .fall) ∨ c.edge = .both then
            some { stamp := first, source := source, kind := if level then .rise else .fall, value := 0 }
          else none)) ∧
      (moved.2 = none → drafts i =
        if 10000 ≤ s.capture.windowCounter + 1 ∧ overlaid ∧ tracker.chattering = true ∧ tracker.windowCount = 0 ∧
          s.producing = true ∧ s.time.quality ≠ .noTime then
          some { stamp := s.stampNow, source := source, kind := .chatterOff
                 value := if moved.1.stableLevel = some true then 1 else 0 }
        else none)) ∧
    ∃ trackers : Vector Tracker 8, takeSample levels s =
      ((List.ofFn drafts).filterMap id).foldl (fun u d => handOver d u) { s with capture := { s.capture with
        trackers := trackers
        windowCounter := if 10000 ≤ s.capture.windowCounter + 1 then 0 else s.capture.windowCounter + 1
        untilSample := some 100 } }) ∧
  (∀ (d : Draft) (s : State),
    (s.queue.records.length < 32 → s.capture.pendingLoss = none → handOver d s = journalInsert
      { origin := s.own, session := s.ctrl.session, sequence := s.queue.nextSequence, time := d.stamp.time
        source := d.source, kind := d.kind, value := d.value, quality := d.stamp.quality, late := false
        forced := false, awaiting := s.ctrl.session.isNone }
      { s with queue := { s.queue with
          records := s.queue.records ++
            [{ sequence := s.queue.nextSequence, session := s.ctrl.session, time := d.stamp.time
               source := d.source, kind := d.kind, value := d.value, quality := d.stamp.quality
               announced := false }]
          nextSequence := s.queue.nextSequence + 1 } }) ∧
    (32 ≤ s.queue.records.length ∨ s.capture.pendingLoss ≠ none → ∃ t : State, handOver d s = t ∧
      t = { s with
        queue := { s.queue with captureLost := min (s.queue.captureLost + 1) 65535 }
        capture := { s.capture with pendingLoss := t.capture.pendingLoss }
        port := t.port } ∧
      (s.capture.pendingLoss = none → t.capture.pendingLoss = some { first := d.stamp, count := 1 }) ∧
      (∀ l, s.capture.pendingLoss = some l →
        t.capture.pendingLoss = some { first := l.first, count := min (l.count + 1) 65535 }) ∧
      CausesAdded s t fun c => c = .captureLoss ∧ s.capture.pendingLoss = none))

/-! ## The Journal -/

/-- Insertion into the Journal: a record whose identity is held is dropped and nothing else happens; in a Journal with
room it is placed LATE at the released tail or in key order in the unreleased part; a full one first discards its
oldest released record that is not pinned. Where there is none, the latest in key order of the unreleased records and
the incoming one is discarded; an incoming record that stays is placed as above; and the earliest unreleased record
and all of its timestamp are released with FORCED set and become the horizon. The counters and causes go with each,
and at most 256 records are held (sections 8.3, 8.6 and 11.1). -/
def Obligations.JournalInsertion : Prop :=
  ∀ (r : JournalRecord) (s : State), s.journal.Ordered →
    let j := s.journal
    let identityHeld := r.session ≠ none ∧ ∃ x ∈ j.released ++ j.unreleased,
      x.origin = r.origin ∧ x.session = r.session ∧ x.sequence = r.sequence
    let late := ∃ h, j.horizon = some h ∧ h.earlier r.time = false
    let placedIn (k k' : Journal) : Prop :=
      (late → k' = { k with
        released := k.released ++ [{ r with late := true }], late := min (k.late + 1) 65535 }) ∧
      (¬ late → ∃ before after, k.unreleased = before ++ after ∧
        (∀ x ∈ before, r.keyEarlier x = false) ∧ (∀ x ∈ after, r.keyEarlier x = true) ∧
        k' = { k with unreleased := before ++ r :: after })
    let forcedOut (k k' : Journal) : Prop := ∃ first, k.unreleased.head? = some first ∧ k' = { k with
      released := k.released ++ (k.unreleased.filter fun x => decide (x.time = first.time)).map
        fun x => { x with forced := true }
      unreleased := k.unreleased.filter fun x => decide (x.time ≠ first.time)
      horizon := some first.time
      forced := min (k.forced + (k.unreleased.filter fun x => decide (x.time = first.time)).length) 65535 }
    ∃ t : State, journalInsert r s = t ∧ t = { s with journal := t.journal, port := t.port } ∧
      t.journal.held ≤ 256 ∧
      (identityHeld → t = s) ∧
      (¬ identityHeld → j.held < 256 → placedIn j t.journal ∧ CausesAdded s t fun c => c = .lateRecord ∧ late) ∧
      (¬ identityHeld → j.held = 256 → j.pinned = false → ∀ oldest rest, j.released = oldest :: rest →
        placedIn { j with released := rest, overrun := min (j.overrun + 1) 65535 } t.journal ∧
        CausesAdded s t fun c => c = .journalLoss ∨ (c = .lateRecord ∧ late)) ∧
      (¬ identityHeld → j.held = 256 → j.pinned = true → ∀ head oldest rest, j.released = head :: oldest :: rest →
        placedIn { j with released := head :: rest, overrun := min (j.overrun + 1) 65535 } t.journal ∧
        CausesAdded s t fun c => c = .journalLoss ∨ (c = .lateRecord ∧ late)) ∧
      (¬ identityHeld → j.held = 256 → (if j.pinned then j.released.length = 1 else j.released = []) →
        ∃ last, j.unreleased.getLast? = some last ∧
          (r.keyEarlier last = false →
            forcedOut { j with overflow := min (j.overflow + 1) 65535 } t.journal ∧
            CausesAdded s t fun c => c = .journalLoss) ∧
          (r.keyEarlier last = true →
            (∃ k : Journal,
              placedIn { j with overflow := min (j.overflow + 1) 65535, unreleased := j.unreleased.dropLast } k ∧
              forcedOut k t.journal) ∧
            CausesAdded s t fun c => c = .journalLoss ∨ (c = .lateRecord ∧ late)))

/-- On entry to ACTIVE the own records that await a session take it, wherever they stand, and lose their mark. One
whose identity is held already is dropped, released or unreleased; a pinned one keeps its place, and the record of its
identity is dropped in its stead. All other records and every counter stand, so nothing is counted; and no two records
share an identity after it if none did before and the awaiting ones are own records numbered apart (section 8.3;
awaiting records with one sequence number are not told apart, log 21). -/
def Obligations.AwaitingRecordsTakeSession : Prop :=
  ∀ (j : Journal) (own : StationNo) (x : Session),
    let take (r : JournalRecord) := if r.awaiting then { r with session := some x, awaiting := false } else r
    let held (q : Sequence) : Bool := decide (∃ y ∈ j.released ++ j.unreleased,
      y.awaiting = false ∧ y.origin = own ∧ y.session = some x ∧ y.sequence = q)
    let pinnedTakes (q : Sequence) : Bool := decide (j.pinned = true ∧
      ∃ head ∈ j.released.head?, head.awaiting = true ∧ head.sequence = q)
    let stays (r : JournalRecord) : Bool :=
      if r.awaiting then !held r.sequence
      else !(decide (r.origin = own ∧ r.session = some x) && pinnedTakes r.sequence)
    (j.pinned = false ∨ j.released = [] → j.takeSession own x = { j with
      released := (j.released.filter stays).map take, unreleased := (j.unreleased.filter stays).map take }) ∧
    (∀ head rest, j.pinned = true → j.released = head :: rest → j.takeSession own x = { j with
      released := take head :: (rest.filter stays).map take, unreleased := (j.unreleased.filter stays).map take }) ∧
    ((j.released ++ j.unreleased).Pairwise (fun a b => ¬ a.identityShared b) →
      (∀ r ∈ j.released ++ j.unreleased, r.awaiting = true → r.origin = own) →
      (j.released ++ j.unreleased).Pairwise
        (fun a b => a.awaiting = true → b.awaiting = true → a.sequence ≠ b.sequence) →
      ((j.takeSession own x).released ++ (j.takeSession own x).unreleased).Pairwise
        fun a b => ¬ a.identityShared b)

/-! ## What every step keeps -/

/-- From a state whose Journal has its form (at most 256 records, the unreleased part in key order and later than the
horizon, no identity held twice) and whose Outbound Queue has its form (at most 32 records, consecutive sequences, the
announced ones first), every step leads to one that has both (sections 6.1, 6.2, 8.1 to 8.4). -/
def Obligations.EveryStepKeepsRecords : Prop :=
  ∀ s t : State, s.journal.Ordered → s.Numbered → s.Identified → step s = .next t →
    t.journal.Ordered ∧ t.Numbered ∧ t.Identified

/-- From a state whose controller, settings, timers and time quality agree with its station state and whose persistent
causes are in the set, every step leads to such a state (sections 2.1, 2.2, 3.5, 9.5, 10.6, 11.2). -/
def Obligations.EveryStepKeepsStation : Prop :=
  ∀ s t : State, s.Consistent → s.CausesHeld → step s = .next t → t.Consistent ∧ t.CausesHeld

/-- From a state with a sound Membership Table, nothing held under the own number, 16-bit counters, and a pin exactly
during a READ_RECORD answered with OK, every step leads to such a state (sections 4.1, 4.5, 7.1, 8.8, 9.1, 11.3). -/
def Obligations.EveryStepKeepsBlocks : Prop :=
  ∀ s t : State, s.TableKept → s.OwnUnused → s.countersInRange → s.PinKept → step s = .next t →
    t.TableKept ∧ t.OwnUnused ∧ t.countersInRange ∧ t.PinKept

/-- The state right after a reset has every one of these invariants. -/
def Obligations.ResetHasEveryInvariant : Prop :=
  State.reset.journal.Ordered ∧ State.reset.Numbered ∧ State.reset.Identified ∧ State.reset.Consistent ∧
    State.reset.CausesHeld ∧ State.reset.TableKept ∧ State.reset.OwnUnused ∧ State.reset.countersInRange ∧
    State.reset.PinKept

/-- Out of CONFIG no command but a reset changes the settings (section 10.6); that RESET_END changes nothing without a
reset under way is the model's choice of log 6. -/
def Obligations.SettingsFrozenAfterStart : Prop :=
  ∀ (c : Instr) (s t : State), s.ctrl.station ≠ .config → c ≠ .powerOnReset → c ≠ .pinReset →
    s.pins.resetLow = false → exec c s = .next t → t.settings = s.settings

/-- A receiver reads from the bytes of a frame the frame itself, every field at every value the layout admits
(section 9.6). -/
def Obligations.FrameReadsAsSent : Prop :=
  ∀ (rl : Nat) (f : Frame), rl ≤ 64000 → f.Sound rl → readFrame rl f.bytes = some f

end Statements
end

