-- ==== Sys2Proof/Laws/State.lean ====
section
/-! SUPPORT. One lemma for each block and each block update of State: the updated block reads as written, every
other block as before. All are true by rfl and tagged for simp, so that no later proof unfolds an update. -/

namespace Sys2Proof.Machine

variable (s : State)

@[simp] theorem State.setSettings_settings (x : Settings) : (s.setSettings x).settings = x := rfl
@[simp] theorem State.setSettings_line (x : Settings) : (s.setSettings x).line = s.line := rfl
@[simp] theorem State.setSettings_ctrl (x : Settings) : (s.setSettings x).ctrl = s.ctrl := rfl
@[simp] theorem State.setSettings_time (x : Settings) : (s.setSettings x).time = s.time := rfl
@[simp] theorem State.setSettings_members (x : Settings) : (s.setSettings x).members = s.members := rfl
@[simp] theorem State.setSettings_capture (x : Settings) : (s.setSettings x).capture = s.capture := rfl
@[simp] theorem State.setSettings_queue (x : Settings) : (s.setSettings x).queue = s.queue := rfl
@[simp] theorem State.setSettings_receipts (x : Settings) : (s.setSettings x).receipts = s.receipts := rfl
@[simp] theorem State.setSettings_journal (x : Settings) : (s.setSettings x).journal = s.journal := rfl
@[simp] theorem State.setSettings_port (x : Settings) : (s.setSettings x).port = s.port := rfl
@[simp] theorem State.setSettings_pins (x : Settings) : (s.setSettings x).pins = s.pins := rfl
@[simp] theorem State.setSettings_pending (x : Settings) : (s.setSettings x).pending = s.pending := rfl

@[simp] theorem State.setLine_settings (x : LineInterface) : (s.setLine x).settings = s.settings := rfl
@[simp] theorem State.setLine_line (x : LineInterface) : (s.setLine x).line = x := rfl
@[simp] theorem State.setLine_ctrl (x : LineInterface) : (s.setLine x).ctrl = s.ctrl := rfl
@[simp] theorem State.setLine_time (x : LineInterface) : (s.setLine x).time = s.time := rfl
@[simp] theorem State.setLine_members (x : LineInterface) : (s.setLine x).members = s.members := rfl
@[simp] theorem State.setLine_capture (x : LineInterface) : (s.setLine x).capture = s.capture := rfl
@[simp] theorem State.setLine_queue (x : LineInterface) : (s.setLine x).queue = s.queue := rfl
@[simp] theorem State.setLine_receipts (x : LineInterface) : (s.setLine x).receipts = s.receipts := rfl
@[simp] theorem State.setLine_journal (x : LineInterface) : (s.setLine x).journal = s.journal := rfl
@[simp] theorem State.setLine_port (x : LineInterface) : (s.setLine x).port = s.port := rfl
@[simp] theorem State.setLine_pins (x : LineInterface) : (s.setLine x).pins = s.pins := rfl
@[simp] theorem State.setLine_pending (x : LineInterface) : (s.setLine x).pending = s.pending := rfl

@[simp] theorem State.setCtrl_settings (x : Controller) : (s.setCtrl x).settings = s.settings := rfl
@[simp] theorem State.setCtrl_line (x : Controller) : (s.setCtrl x).line = s.line := rfl
@[simp] theorem State.setCtrl_ctrl (x : Controller) : (s.setCtrl x).ctrl = x := rfl
@[simp] theorem State.setCtrl_time (x : Controller) : (s.setCtrl x).time = s.time := rfl
@[simp] theorem State.setCtrl_members (x : Controller) : (s.setCtrl x).members = s.members := rfl
@[simp] theorem State.setCtrl_capture (x : Controller) : (s.setCtrl x).capture = s.capture := rfl
@[simp] theorem State.setCtrl_queue (x : Controller) : (s.setCtrl x).queue = s.queue := rfl
@[simp] theorem State.setCtrl_receipts (x : Controller) : (s.setCtrl x).receipts = s.receipts := rfl
@[simp] theorem State.setCtrl_journal (x : Controller) : (s.setCtrl x).journal = s.journal := rfl
@[simp] theorem State.setCtrl_port (x : Controller) : (s.setCtrl x).port = s.port := rfl
@[simp] theorem State.setCtrl_pins (x : Controller) : (s.setCtrl x).pins = s.pins := rfl
@[simp] theorem State.setCtrl_pending (x : Controller) : (s.setCtrl x).pending = s.pending := rfl

@[simp] theorem State.setTime_settings (x : TimeUnit) : (s.setTime x).settings = s.settings := rfl
@[simp] theorem State.setTime_line (x : TimeUnit) : (s.setTime x).line = s.line := rfl
@[simp] theorem State.setTime_ctrl (x : TimeUnit) : (s.setTime x).ctrl = s.ctrl := rfl
@[simp] theorem State.setTime_time (x : TimeUnit) : (s.setTime x).time = x := rfl
@[simp] theorem State.setTime_members (x : TimeUnit) : (s.setTime x).members = s.members := rfl
@[simp] theorem State.setTime_capture (x : TimeUnit) : (s.setTime x).capture = s.capture := rfl
@[simp] theorem State.setTime_queue (x : TimeUnit) : (s.setTime x).queue = s.queue := rfl
@[simp] theorem State.setTime_receipts (x : TimeUnit) : (s.setTime x).receipts = s.receipts := rfl
@[simp] theorem State.setTime_journal (x : TimeUnit) : (s.setTime x).journal = s.journal := rfl
@[simp] theorem State.setTime_port (x : TimeUnit) : (s.setTime x).port = s.port := rfl
@[simp] theorem State.setTime_pins (x : TimeUnit) : (s.setTime x).pins = s.pins := rfl
@[simp] theorem State.setTime_pending (x : TimeUnit) : (s.setTime x).pending = s.pending := rfl

@[simp] theorem State.setMembers_settings (x : Membership) : (s.setMembers x).settings = s.settings := rfl
@[simp] theorem State.setMembers_line (x : Membership) : (s.setMembers x).line = s.line := rfl
@[simp] theorem State.setMembers_ctrl (x : Membership) : (s.setMembers x).ctrl = s.ctrl := rfl
@[simp] theorem State.setMembers_time (x : Membership) : (s.setMembers x).time = s.time := rfl
@[simp] theorem State.setMembers_members (x : Membership) : (s.setMembers x).members = x := rfl
@[simp] theorem State.setMembers_capture (x : Membership) : (s.setMembers x).capture = s.capture := rfl
@[simp] theorem State.setMembers_queue (x : Membership) : (s.setMembers x).queue = s.queue := rfl
@[simp] theorem State.setMembers_receipts (x : Membership) : (s.setMembers x).receipts = s.receipts := rfl
@[simp] theorem State.setMembers_journal (x : Membership) : (s.setMembers x).journal = s.journal := rfl
@[simp] theorem State.setMembers_port (x : Membership) : (s.setMembers x).port = s.port := rfl
@[simp] theorem State.setMembers_pins (x : Membership) : (s.setMembers x).pins = s.pins := rfl
@[simp] theorem State.setMembers_pending (x : Membership) : (s.setMembers x).pending = s.pending := rfl

@[simp] theorem State.setCapture_settings (x : CaptureUnit) : (s.setCapture x).settings = s.settings := rfl
@[simp] theorem State.setCapture_line (x : CaptureUnit) : (s.setCapture x).line = s.line := rfl
@[simp] theorem State.setCapture_ctrl (x : CaptureUnit) : (s.setCapture x).ctrl = s.ctrl := rfl
@[simp] theorem State.setCapture_time (x : CaptureUnit) : (s.setCapture x).time = s.time := rfl
@[simp] theorem State.setCapture_members (x : CaptureUnit) : (s.setCapture x).members = s.members := rfl
@[simp] theorem State.setCapture_capture (x : CaptureUnit) : (s.setCapture x).capture = x := rfl
@[simp] theorem State.setCapture_queue (x : CaptureUnit) : (s.setCapture x).queue = s.queue := rfl
@[simp] theorem State.setCapture_receipts (x : CaptureUnit) : (s.setCapture x).receipts = s.receipts := rfl
@[simp] theorem State.setCapture_journal (x : CaptureUnit) : (s.setCapture x).journal = s.journal := rfl
@[simp] theorem State.setCapture_port (x : CaptureUnit) : (s.setCapture x).port = s.port := rfl
@[simp] theorem State.setCapture_pins (x : CaptureUnit) : (s.setCapture x).pins = s.pins := rfl
@[simp] theorem State.setCapture_pending (x : CaptureUnit) : (s.setCapture x).pending = s.pending := rfl

@[simp] theorem State.setQueue_settings (x : OutboundQueue) : (s.setQueue x).settings = s.settings := rfl
@[simp] theorem State.setQueue_line (x : OutboundQueue) : (s.setQueue x).line = s.line := rfl
@[simp] theorem State.setQueue_ctrl (x : OutboundQueue) : (s.setQueue x).ctrl = s.ctrl := rfl
@[simp] theorem State.setQueue_time (x : OutboundQueue) : (s.setQueue x).time = s.time := rfl
@[simp] theorem State.setQueue_members (x : OutboundQueue) : (s.setQueue x).members = s.members := rfl
@[simp] theorem State.setQueue_capture (x : OutboundQueue) : (s.setQueue x).capture = s.capture := rfl
@[simp] theorem State.setQueue_queue (x : OutboundQueue) : (s.setQueue x).queue = x := rfl
@[simp] theorem State.setQueue_receipts (x : OutboundQueue) : (s.setQueue x).receipts = s.receipts := rfl
@[simp] theorem State.setQueue_journal (x : OutboundQueue) : (s.setQueue x).journal = s.journal := rfl
@[simp] theorem State.setQueue_port (x : OutboundQueue) : (s.setQueue x).port = s.port := rfl
@[simp] theorem State.setQueue_pins (x : OutboundQueue) : (s.setQueue x).pins = s.pins := rfl
@[simp] theorem State.setQueue_pending (x : OutboundQueue) : (s.setQueue x).pending = s.pending := rfl

@[simp] theorem State.setReceipts_settings (x : ReceiptUnit) : (s.setReceipts x).settings = s.settings := rfl
@[simp] theorem State.setReceipts_line (x : ReceiptUnit) : (s.setReceipts x).line = s.line := rfl
@[simp] theorem State.setReceipts_ctrl (x : ReceiptUnit) : (s.setReceipts x).ctrl = s.ctrl := rfl
@[simp] theorem State.setReceipts_time (x : ReceiptUnit) : (s.setReceipts x).time = s.time := rfl
@[simp] theorem State.setReceipts_members (x : ReceiptUnit) : (s.setReceipts x).members = s.members := rfl
@[simp] theorem State.setReceipts_capture (x : ReceiptUnit) : (s.setReceipts x).capture = s.capture := rfl
@[simp] theorem State.setReceipts_queue (x : ReceiptUnit) : (s.setReceipts x).queue = s.queue := rfl
@[simp] theorem State.setReceipts_receipts (x : ReceiptUnit) : (s.setReceipts x).receipts = x := rfl
@[simp] theorem State.setReceipts_journal (x : ReceiptUnit) : (s.setReceipts x).journal = s.journal := rfl
@[simp] theorem State.setReceipts_port (x : ReceiptUnit) : (s.setReceipts x).port = s.port := rfl
@[simp] theorem State.setReceipts_pins (x : ReceiptUnit) : (s.setReceipts x).pins = s.pins := rfl
@[simp] theorem State.setReceipts_pending (x : ReceiptUnit) : (s.setReceipts x).pending = s.pending := rfl

@[simp] theorem State.setJournal_settings (x : Journal) : (s.setJournal x).settings = s.settings := rfl
@[simp] theorem State.setJournal_line (x : Journal) : (s.setJournal x).line = s.line := rfl
@[simp] theorem State.setJournal_ctrl (x : Journal) : (s.setJournal x).ctrl = s.ctrl := rfl
@[simp] theorem State.setJournal_time (x : Journal) : (s.setJournal x).time = s.time := rfl
@[simp] theorem State.setJournal_members (x : Journal) : (s.setJournal x).members = s.members := rfl
@[simp] theorem State.setJournal_capture (x : Journal) : (s.setJournal x).capture = s.capture := rfl
@[simp] theorem State.setJournal_queue (x : Journal) : (s.setJournal x).queue = s.queue := rfl
@[simp] theorem State.setJournal_receipts (x : Journal) : (s.setJournal x).receipts = s.receipts := rfl
@[simp] theorem State.setJournal_journal (x : Journal) : (s.setJournal x).journal = x := rfl
@[simp] theorem State.setJournal_port (x : Journal) : (s.setJournal x).port = s.port := rfl
@[simp] theorem State.setJournal_pins (x : Journal) : (s.setJournal x).pins = s.pins := rfl
@[simp] theorem State.setJournal_pending (x : Journal) : (s.setJournal x).pending = s.pending := rfl

@[simp] theorem State.setPort_settings (x : HostPort) : (s.setPort x).settings = s.settings := rfl
@[simp] theorem State.setPort_line (x : HostPort) : (s.setPort x).line = s.line := rfl
@[simp] theorem State.setPort_ctrl (x : HostPort) : (s.setPort x).ctrl = s.ctrl := rfl
@[simp] theorem State.setPort_time (x : HostPort) : (s.setPort x).time = s.time := rfl
@[simp] theorem State.setPort_members (x : HostPort) : (s.setPort x).members = s.members := rfl
@[simp] theorem State.setPort_capture (x : HostPort) : (s.setPort x).capture = s.capture := rfl
@[simp] theorem State.setPort_queue (x : HostPort) : (s.setPort x).queue = s.queue := rfl
@[simp] theorem State.setPort_receipts (x : HostPort) : (s.setPort x).receipts = s.receipts := rfl
@[simp] theorem State.setPort_journal (x : HostPort) : (s.setPort x).journal = s.journal := rfl
@[simp] theorem State.setPort_port (x : HostPort) : (s.setPort x).port = x := rfl
@[simp] theorem State.setPort_pins (x : HostPort) : (s.setPort x).pins = s.pins := rfl
@[simp] theorem State.setPort_pending (x : HostPort) : (s.setPort x).pending = s.pending := rfl

@[simp] theorem State.setPins_settings (x : Pins) : (s.setPins x).settings = s.settings := rfl
@[simp] theorem State.setPins_line (x : Pins) : (s.setPins x).line = s.line := rfl
@[simp] theorem State.setPins_ctrl (x : Pins) : (s.setPins x).ctrl = s.ctrl := rfl
@[simp] theorem State.setPins_time (x : Pins) : (s.setPins x).time = s.time := rfl
@[simp] theorem State.setPins_members (x : Pins) : (s.setPins x).members = s.members := rfl
@[simp] theorem State.setPins_capture (x : Pins) : (s.setPins x).capture = s.capture := rfl
@[simp] theorem State.setPins_queue (x : Pins) : (s.setPins x).queue = s.queue := rfl
@[simp] theorem State.setPins_receipts (x : Pins) : (s.setPins x).receipts = s.receipts := rfl
@[simp] theorem State.setPins_journal (x : Pins) : (s.setPins x).journal = s.journal := rfl
@[simp] theorem State.setPins_port (x : Pins) : (s.setPins x).port = s.port := rfl
@[simp] theorem State.setPins_pins (x : Pins) : (s.setPins x).pins = x := rfl
@[simp] theorem State.setPins_pending (x : Pins) : (s.setPins x).pending = s.pending := rfl

@[simp] theorem State.setPending_settings (x : List Instr) : (s.setPending x).settings = s.settings := rfl
@[simp] theorem State.setPending_line (x : List Instr) : (s.setPending x).line = s.line := rfl
@[simp] theorem State.setPending_ctrl (x : List Instr) : (s.setPending x).ctrl = s.ctrl := rfl
@[simp] theorem State.setPending_time (x : List Instr) : (s.setPending x).time = s.time := rfl
@[simp] theorem State.setPending_members (x : List Instr) : (s.setPending x).members = s.members := rfl
@[simp] theorem State.setPending_capture (x : List Instr) : (s.setPending x).capture = s.capture := rfl
@[simp] theorem State.setPending_queue (x : List Instr) : (s.setPending x).queue = s.queue := rfl
@[simp] theorem State.setPending_receipts (x : List Instr) : (s.setPending x).receipts = s.receipts := rfl
@[simp] theorem State.setPending_journal (x : List Instr) : (s.setPending x).journal = s.journal := rfl
@[simp] theorem State.setPending_port (x : List Instr) : (s.setPending x).port = s.port := rfl
@[simp] theorem State.setPending_pins (x : List Instr) : (s.setPending x).pins = s.pins := rfl
@[simp] theorem State.setPending_pending (x : List Instr) : (s.setPending x).pending = x := rfl

end Sys2Proof.Machine
end

