-- ==== Sys2Proof/Laws/Frames.lean ====
section
/-! SUPPORT. The frame of every shared operation: the blocks of State it leaves as they were, once for each. -/

namespace Sys2Proof.Machine

@[simp] theorem raise_keeps (c : Cause) (s : State) :
    (raise c s).settings = s.settings ∧ (raise c s).line = s.line ∧ (raise c s).ctrl = s.ctrl ∧
    (raise c s).time = s.time ∧ (raise c s).members = s.members ∧ (raise c s).capture = s.capture ∧
    (raise c s).queue = s.queue ∧ (raise c s).receipts = s.receipts ∧ (raise c s).journal = s.journal ∧
    (raise c s).pins = s.pins ∧ (raise c s).pending = s.pending := by simp [raise]

@[simp] theorem raiseIf_keeps (b : Bool) (c : Cause) (s : State) :
    (raiseIf b c s).settings = s.settings ∧ (raiseIf b c s).line = s.line ∧ (raiseIf b c s).ctrl = s.ctrl ∧
    (raiseIf b c s).time = s.time ∧ (raiseIf b c s).members = s.members ∧
    (raiseIf b c s).capture = s.capture ∧ (raiseIf b c s).queue = s.queue ∧
    (raiseIf b c s).receipts = s.receipts ∧ (raiseIf b c s).journal = s.journal ∧
    (raiseIf b c s).pins = s.pins ∧ (raiseIf b c s).pending = s.pending := by cases b <;> simp [raiseIf]

@[simp] theorem holdPersistent_keeps (s : State) :
    (holdPersistent s).settings = s.settings ∧ (holdPersistent s).line = s.line ∧
    (holdPersistent s).ctrl = s.ctrl ∧ (holdPersistent s).time = s.time ∧
    (holdPersistent s).members = s.members ∧ (holdPersistent s).capture = s.capture ∧
    (holdPersistent s).queue = s.queue ∧ (holdPersistent s).receipts = s.receipts ∧
    (holdPersistent s).journal = s.journal ∧ (holdPersistent s).pins = s.pins ∧
    (holdPersistent s).pending = s.pending := by simp [holdPersistent]

@[simp] theorem journalInsert_keeps (r : JournalRecord) (s : State) :
    (journalInsert r s).settings = s.settings ∧ (journalInsert r s).line = s.line ∧
    (journalInsert r s).ctrl = s.ctrl ∧ (journalInsert r s).time = s.time ∧
    (journalInsert r s).members = s.members ∧ (journalInsert r s).capture = s.capture ∧
    (journalInsert r s).queue = s.queue ∧ (journalInsert r s).receipts = s.receipts ∧
    (journalInsert r s).pins = s.pins ∧ (journalInsert r s).pending = s.pending := by simp [journalInsert]

@[simp] theorem enqueue_keeps (d : Draft) (s : State) :
    (enqueue d s).settings = s.settings ∧ (enqueue d s).line = s.line ∧ (enqueue d s).ctrl = s.ctrl ∧
    (enqueue d s).time = s.time ∧ (enqueue d s).members = s.members ∧ (enqueue d s).capture = s.capture ∧
    (enqueue d s).receipts = s.receipts ∧ (enqueue d s).pins = s.pins ∧ (enqueue d s).pending = s.pending := by simp [enqueue]

@[simp] theorem loseRecord_keeps (d : Draft) (s : State) :
    (loseRecord d s).settings = s.settings ∧ (loseRecord d s).line = s.line ∧
    (loseRecord d s).ctrl = s.ctrl ∧ (loseRecord d s).time = s.time ∧
    (loseRecord d s).members = s.members ∧ (loseRecord d s).receipts = s.receipts ∧
    (loseRecord d s).journal = s.journal ∧ (loseRecord d s).pins = s.pins ∧
    (loseRecord d s).pending = s.pending := by simp [loseRecord]

@[simp] theorem handOver_keeps (d : Draft) (s : State) :
    (handOver d s).settings = s.settings ∧ (handOver d s).line = s.line ∧ (handOver d s).ctrl = s.ctrl ∧
    (handOver d s).time = s.time ∧ (handOver d s).members = s.members ∧
    (handOver d s).receipts = s.receipts ∧ (handOver d s).pins = s.pins ∧ (handOver d s).pending = s.pending := by unfold handOver; split <;> simp

@[simp] theorem handOverAll_keeps (ds : List Draft) (s : State) :
    (ds.foldl (fun s d => handOver d s) s).settings = s.settings ∧
    (ds.foldl (fun s d => handOver d s) s).line = s.line ∧
    (ds.foldl (fun s d => handOver d s) s).ctrl = s.ctrl ∧
    (ds.foldl (fun s d => handOver d s) s).time = s.time ∧
    (ds.foldl (fun s d => handOver d s) s).members = s.members ∧
    (ds.foldl (fun s d => handOver d s) s).receipts = s.receipts ∧
    (ds.foldl (fun s d => handOver d s) s).pins = s.pins ∧
    (ds.foldl (fun s d => handOver d s) s).pending = s.pending := by
  induction ds generalizing s with
  | nil => simp
  | cons d ds ih => simpa using ih (handOver d s)

@[simp] theorem takeSample_keeps (levels : BitVec 8) (s : State) :
    (takeSample levels s).settings = s.settings ∧ (takeSample levels s).line = s.line ∧
    (takeSample levels s).ctrl = s.ctrl ∧ (takeSample levels s).time = s.time ∧
    (takeSample levels s).members = s.members ∧ (takeSample levels s).receipts = s.receipts ∧
    (takeSample levels s).pins = s.pins ∧ (takeSample levels s).pending = s.pending := by simp [takeSample]

@[simp] theorem writePendingLoss_keeps (s : State) :
    (writePendingLoss s).settings = s.settings ∧ (writePendingLoss s).line = s.line ∧
    (writePendingLoss s).ctrl = s.ctrl ∧ (writePendingLoss s).time = s.time ∧
    (writePendingLoss s).members = s.members ∧ (writePendingLoss s).receipts = s.receipts ∧
    (writePendingLoss s).pins = s.pins ∧ (writePendingLoss s).pending = s.pending := by unfold writePendingLoss; split <;> simp

@[simp] theorem removeWhile_keeps (test : QueuedRecord → Bool) (s : State) :
    (removeWhile test s).settings = s.settings ∧ (removeWhile test s).line = s.line ∧
    (removeWhile test s).ctrl = s.ctrl ∧ (removeWhile test s).time = s.time ∧
    (removeWhile test s).members = s.members ∧ (removeWhile test s).receipts = s.receipts ∧
    (removeWhile test s).pins = s.pins ∧ (removeWhile test s).pending = s.pending := by
  simp only [removeWhile]; split <;> simp

@[simp] theorem removeAcknowledged_keeps (s : State) :
    (removeAcknowledged s).settings = s.settings ∧ (removeAcknowledged s).line = s.line ∧
    (removeAcknowledged s).ctrl = s.ctrl ∧ (removeAcknowledged s).time = s.time ∧
    (removeAcknowledged s).members = s.members ∧ (removeAcknowledged s).receipts = s.receipts ∧
    (removeAcknowledged s).pins = s.pins ∧ (removeAcknowledged s).pending = s.pending := by unfold removeAcknowledged; split <;> simp

@[simp] theorem outboundRoundEnd_keeps (s : State) :
    (outboundRoundEnd s).settings = s.settings ∧ (outboundRoundEnd s).line = s.line ∧
    (outboundRoundEnd s).ctrl = s.ctrl ∧ (outboundRoundEnd s).time = s.time ∧
    (outboundRoundEnd s).members = s.members ∧ (outboundRoundEnd s).receipts = s.receipts ∧
    (outboundRoundEnd s).pins = s.pins ∧ (outboundRoundEnd s).pending = s.pending := by unfold outboundRoundEnd; (repeat' split) <;> simp

@[simp] theorem outboundTakeFrame_keeps (f : Frame) (s : State) :
    (outboundTakeFrame f s).settings = s.settings ∧ (outboundTakeFrame f s).line = s.line ∧
    (outboundTakeFrame f s).ctrl = s.ctrl ∧ (outboundTakeFrame f s).time = s.time ∧
    (outboundTakeFrame f s).members = s.members ∧ (outboundTakeFrame f s).receipts = s.receipts ∧
    (outboundTakeFrame f s).pins = s.pins ∧ (outboundTakeFrame f s).pending = s.pending := by simp only [outboundTakeFrame]; (repeat' split) <;> simp

@[simp] theorem changeStation_keeps (station : StationState) (s : State) :
    (changeStation station s).settings = s.settings ∧ (changeStation station s).members = s.members ∧
    (changeStation station s).capture = s.capture ∧ (changeStation station s).queue = s.queue ∧
    (changeStation station s).receipts = s.receipts ∧ (changeStation station s).journal = s.journal ∧
    (changeStation station s).pins = s.pins ∧ (changeStation station s).pending = s.pending := by simp [changeStation]

@[simp] theorem enterListen_keeps (s : State) :
    (enterListen s).settings = s.settings ∧ (enterListen s).capture = s.capture ∧
    (enterListen s).queue = s.queue ∧ (enterListen s).receipts = s.receipts ∧
    (enterListen s).journal = s.journal ∧ (enterListen s).pins = s.pins ∧
    (enterListen s).pending = s.pending := by simp [enterListen]

@[simp] theorem reintegrate_keeps (s : State) :
    (reintegrate s).settings = s.settings ∧ (reintegrate s).capture = s.capture ∧
    (reintegrate s).queue = s.queue ∧ (reintegrate s).receipts = s.receipts ∧
    (reintegrate s).journal = s.journal ∧ (reintegrate s).pins = s.pins ∧
    (reintegrate s).pending = s.pending := by simp [reintegrate]

@[simp] theorem retire_keeps (station : StationState) (s : State) :
    (retire station s).settings = s.settings ∧ (retire station s).queue = s.queue ∧
    (retire station s).receipts = s.receipts ∧ (retire station s).pins = s.pins ∧
    (retire station s).pending = s.pending := by simp [retire]

@[simp] theorem enterDeparted_keeps (s : State) :
    (enterDeparted s).settings = s.settings ∧ (enterDeparted s).receipts = s.receipts ∧
    (enterDeparted s).pins = s.pins ∧ (enterDeparted s).pending = s.pending := by simp [enterDeparted]

@[simp] theorem enterFault_keeps (s : State) :
    (enterFault s).settings = s.settings ∧ (enterFault s).queue = s.queue ∧
    (enterFault s).receipts = s.receipts ∧ (enterFault s).pins = s.pins ∧ (enterFault s).pending = s.pending := by simp [enterFault]

@[simp] theorem placeOrder_keeps (o : TransmitOrder) (s : State) :
    (placeOrder o s).settings = s.settings ∧ (placeOrder o s).ctrl = s.ctrl ∧
    (placeOrder o s).time = s.time ∧ (placeOrder o s).members = s.members ∧
    (placeOrder o s).capture = s.capture ∧ (placeOrder o s).queue = s.queue ∧
    (placeOrder o s).receipts = s.receipts ∧ (placeOrder o s).journal = s.journal ∧
    (placeOrder o s).port = s.port ∧ (placeOrder o s).pins = s.pins ∧ (placeOrder o s).pending = s.pending := by simp [placeOrder]

@[simp] theorem restartSlotTimer_keeps (s : State) :
    (restartSlotTimer s).settings = s.settings ∧ (restartSlotTimer s).line = s.line ∧
    (restartSlotTimer s).time = s.time ∧ (restartSlotTimer s).members = s.members ∧
    (restartSlotTimer s).capture = s.capture ∧ (restartSlotTimer s).queue = s.queue ∧
    (restartSlotTimer s).receipts = s.receipts ∧ (restartSlotTimer s).journal = s.journal ∧
    (restartSlotTimer s).port = s.port ∧ (restartSlotTimer s).pins = s.pins ∧
    (restartSlotTimer s).pending = s.pending := by simp [restartSlotTimer]

@[simp] theorem enterColdstart_keeps (s : State) :
    (enterColdstart s).settings = s.settings ∧ (enterColdstart s).members = s.members ∧
    (enterColdstart s).capture = s.capture ∧ (enterColdstart s).queue = s.queue ∧
    (enterColdstart s).receipts = s.receipts ∧ (enterColdstart s).journal = s.journal ∧
    (enterColdstart s).pins = s.pins ∧ (enterColdstart s).pending = s.pending := by simp [enterColdstart]

@[simp] theorem enterIntegrate_keeps (f : Frame) (localAt : Nat) (s : State) :
    (enterIntegrate f localAt s).settings = s.settings ∧ (enterIntegrate f localAt s).members = s.members ∧
    (enterIntegrate f localAt s).capture = s.capture ∧ (enterIntegrate f localAt s).queue = s.queue ∧
    (enterIntegrate f localAt s).receipts = s.receipts ∧ (enterIntegrate f localAt s).journal = s.journal ∧
    (enterIntegrate f localAt s).pins = s.pins ∧ (enterIntegrate f localAt s).pending = s.pending := by simp [enterIntegrate]

@[simp] theorem membershipEnterActive_keeps (i : Bool) (b : SlotStart) (s : State) :
    (membershipEnterActive i b s).settings = s.settings ∧ (membershipEnterActive i b s).line = s.line ∧
    (membershipEnterActive i b s).ctrl = s.ctrl ∧ (membershipEnterActive i b s).time = s.time ∧
    (membershipEnterActive i b s).capture = s.capture ∧ (membershipEnterActive i b s).queue = s.queue ∧
    (membershipEnterActive i b s).receipts = s.receipts ∧
    (membershipEnterActive i b s).journal = s.journal ∧ (membershipEnterActive i b s).pins = s.pins ∧
    (membershipEnterActive i b s).pending = s.pending := by simp [membershipEnterActive]

@[simp] theorem enterActive_keeps (i : Bool) (b : SlotStart) (s : State) :
    (enterActive i b s).settings = s.settings ∧ (enterActive i b s).capture = s.capture ∧
    (enterActive i b s).receipts = s.receipts ∧ (enterActive i b s).pins = s.pins ∧
    (enterActive i b s).pending = s.pending := by simp [enterActive]

@[simp] theorem lineActivity_keeps (s : State) :
    (lineActivity s).settings = s.settings ∧ (lineActivity s).line = s.line ∧
    (lineActivity s).time = s.time ∧ (lineActivity s).members = s.members ∧
    (lineActivity s).capture = s.capture ∧ (lineActivity s).queue = s.queue ∧
    (lineActivity s).receipts = s.receipts ∧ (lineActivity s).journal = s.journal ∧
    (lineActivity s).port = s.port ∧ (lineActivity s).pins = s.pins ∧ (lineActivity s).pending = s.pending := by unfold lineActivity; split <;> simp

@[simp] theorem controllerTakeFrame_keeps (f : Frame) (localAt : Nat) (s : State) :
    (controllerTakeFrame f localAt s).settings = s.settings ∧
    (controllerTakeFrame f localAt s).queue = s.queue ∧
    (controllerTakeFrame f localAt s).receipts = s.receipts ∧
    (controllerTakeFrame f localAt s).pins = s.pins ∧ (controllerTakeFrame f localAt s).pending = s.pending := by simp only [controllerTakeFrame]; (repeat' split) <;> simp

@[simp] theorem controllerTakeGarbled_keeps (s : State) :
    (controllerTakeGarbled s).settings = s.settings ∧ (controllerTakeGarbled s).capture = s.capture ∧
    (controllerTakeGarbled s).queue = s.queue ∧ (controllerTakeGarbled s).receipts = s.receipts ∧
    (controllerTakeGarbled s).journal = s.journal ∧ (controllerTakeGarbled s).pins = s.pins ∧
    (controllerTakeGarbled s).pending = s.pending := by unfold controllerTakeGarbled; split <;> simp

@[simp] theorem controllerTakeForeign_keeps (s : State) :
    (controllerTakeForeign s).settings = s.settings ∧ (controllerTakeForeign s).line = s.line ∧
    (controllerTakeForeign s).time = s.time ∧ (controllerTakeForeign s).members = s.members ∧
    (controllerTakeForeign s).capture = s.capture ∧ (controllerTakeForeign s).queue = s.queue ∧
    (controllerTakeForeign s).receipts = s.receipts ∧ (controllerTakeForeign s).journal = s.journal ∧
    (controllerTakeForeign s).port = s.port ∧ (controllerTakeForeign s).pins = s.pins ∧
    (controllerTakeForeign s).pending = s.pending := by unfold controllerTakeForeign; split <;> simp

@[simp] theorem controllerTakeEcho_keeps (kind : FrameKind) (good : Bool) (s : State) :
    (controllerTakeEcho kind good s).settings = s.settings ∧
    (controllerTakeEcho kind good s).capture = s.capture ∧
    (controllerTakeEcho kind good s).queue = s.queue ∧
    (controllerTakeEcho kind good s).receipts = s.receipts ∧
    (controllerTakeEcho kind good s).journal = s.journal ∧ (controllerTakeEcho kind good s).pins = s.pins ∧
    (controllerTakeEcho kind good s).pending = s.pending := by unfold controllerTakeEcho; (repeat' split) <;> simp

@[simp] theorem drainRoundEnd_keeps (s : State) :
    (drainRoundEnd s).settings = s.settings ∧ (drainRoundEnd s).receipts = s.receipts ∧
    (drainRoundEnd s).pins = s.pins ∧ (drainRoundEnd s).pending = s.pending := by simp only [drainRoundEnd]; (repeat' split) <;> simp

@[simp] theorem controllerEntry_keeps (b : SlotStart) (s : State) :
    (controllerEntry b s).1.settings = s.settings ∧ (controllerEntry b s).1.capture = s.capture ∧
    (controllerEntry b s).1.receipts = s.receipts ∧ (controllerEntry b s).1.pins = s.pins ∧
    (controllerEntry b s).1.pending = s.pending := by unfold controllerEntry; (repeat' split) <;> simp

@[simp] theorem controllerBoundary_keeps (b : SlotStart) (s : State) :
    (controllerBoundary b s).settings = s.settings ∧ (controllerBoundary b s).receipts = s.receipts ∧
    (controllerBoundary b s).pins = s.pins ∧ (controllerBoundary b s).pending = s.pending := by simp only [controllerBoundary]; (repeat' split) <;> simp

@[simp] theorem takeCorrectionReport_keeps (r : CorrectionReport) (s : State) :
    (takeCorrectionReport r s).settings = s.settings ∧ (takeCorrectionReport r s).capture = s.capture ∧
    (takeCorrectionReport r s).queue = s.queue ∧ (takeCorrectionReport r s).receipts = s.receipts ∧
    (takeCorrectionReport r s).journal = s.journal ∧ (takeCorrectionReport r s).pins = s.pins ∧
    (takeCorrectionReport r s).pending = s.pending := by unfold takeCorrectionReport; (repeat' split) <;> simp

@[simp] theorem takeViewReport_keeps (s : State) :
    (takeViewReport s).settings = s.settings ∧ (takeViewReport s).capture = s.capture ∧
    (takeViewReport s).queue = s.queue ∧ (takeViewReport s).receipts = s.receipts ∧
    (takeViewReport s).journal = s.journal ∧ (takeViewReport s).pins = s.pins ∧
    (takeViewReport s).pending = s.pending := by unfold takeViewReport; split <;> simp

@[simp] theorem journalBoundary_keeps (s : State) :
    (journalBoundary s).settings = s.settings ∧ (journalBoundary s).line = s.line ∧
    (journalBoundary s).ctrl = s.ctrl ∧ (journalBoundary s).time = s.time ∧
    (journalBoundary s).members = s.members ∧ (journalBoundary s).capture = s.capture ∧
    (journalBoundary s).queue = s.queue ∧ (journalBoundary s).receipts = s.receipts ∧
    (journalBoundary s).port = s.port ∧ (journalBoundary s).pins = s.pins ∧
    (journalBoundary s).pending = s.pending := by unfold journalBoundary; (repeat' split) <;> simp

@[simp] theorem membershipTakeFrame_keeps (f : Frame) (s : State) :
    (membershipTakeFrame f s).settings = s.settings ∧ (membershipTakeFrame f s).line = s.line ∧
    (membershipTakeFrame f s).ctrl = s.ctrl ∧ (membershipTakeFrame f s).time = s.time ∧
    (membershipTakeFrame f s).capture = s.capture ∧ (membershipTakeFrame f s).queue = s.queue ∧
    (membershipTakeFrame f s).receipts = s.receipts ∧ (membershipTakeFrame f s).journal = s.journal ∧
    (membershipTakeFrame f s).pins = s.pins ∧ (membershipTakeFrame f s).pending = s.pending := by simp only [membershipTakeFrame]; (repeat' split) <;> simp

@[simp] theorem membershipRoundEnd_keeps (b : SlotStart) (s : State) :
    (membershipRoundEnd b s).settings = s.settings ∧ (membershipRoundEnd b s).line = s.line ∧
    (membershipRoundEnd b s).ctrl = s.ctrl ∧ (membershipRoundEnd b s).time = s.time ∧
    (membershipRoundEnd b s).capture = s.capture ∧ (membershipRoundEnd b s).queue = s.queue ∧
    (membershipRoundEnd b s).receipts = s.receipts ∧ (membershipRoundEnd b s).journal = s.journal ∧
    (membershipRoundEnd b s).pins = s.pins ∧ (membershipRoundEnd b s).pending = s.pending := by unfold membershipRoundEnd; split <;> simp

@[simp] theorem timeTakeFrame_keeps (f : Frame) (sof : CommonTime) (s : State) :
    (timeTakeFrame f sof s).settings = s.settings ∧ (timeTakeFrame f sof s).line = s.line ∧
    (timeTakeFrame f sof s).ctrl = s.ctrl ∧ (timeTakeFrame f sof s).members = s.members ∧
    (timeTakeFrame f sof s).capture = s.capture ∧ (timeTakeFrame f sof s).queue = s.queue ∧
    (timeTakeFrame f sof s).receipts = s.receipts ∧ (timeTakeFrame f sof s).journal = s.journal ∧
    (timeTakeFrame f sof s).port = s.port ∧ (timeTakeFrame f sof s).pins = s.pins ∧
    (timeTakeFrame f sof s).pending = s.pending := by unfold timeTakeFrame; split <;> simp

@[simp] theorem timeRoundEnd_keeps (b : SlotStart) (s : State) :
    (timeRoundEnd b s).1.settings = s.settings ∧ (timeRoundEnd b s).1.line = s.line ∧
    (timeRoundEnd b s).1.ctrl = s.ctrl ∧ (timeRoundEnd b s).1.members = s.members ∧
    (timeRoundEnd b s).1.capture = s.capture ∧ (timeRoundEnd b s).1.queue = s.queue ∧
    (timeRoundEnd b s).1.receipts = s.receipts ∧ (timeRoundEnd b s).1.journal = s.journal ∧
    (timeRoundEnd b s).1.pins = s.pins ∧ (timeRoundEnd b s).1.pending = s.pending := by simp only [timeRoundEnd]; (repeat' split) <;> simp

@[simp] theorem takeAnnouncements_keeps (f : Frame) (ws : List WireRecord) (s : State) :
    (takeAnnouncements f ws s).settings = s.settings ∧ (takeAnnouncements f ws s).line = s.line ∧
    (takeAnnouncements f ws s).ctrl = s.ctrl ∧ (takeAnnouncements f ws s).time = s.time ∧
    (takeAnnouncements f ws s).members = s.members ∧ (takeAnnouncements f ws s).capture = s.capture ∧
    (takeAnnouncements f ws s).queue = s.queue ∧ (takeAnnouncements f ws s).pins = s.pins ∧
    (takeAnnouncements f ws s).pending = s.pending := by
  induction ws generalizing s with
  | nil => simp [takeAnnouncements]
  | cons w ws ih =>
    simp only [takeAnnouncements]
    split
    · simpa [acceptAnnouncement, State.setReceived, State.setReceipt] using ih (acceptAnnouncement f w s)
    · simpa using ih (s.setReceipts { s.receipts with duplicates := countUp s.receipts.duplicates 1 })
    · split
      · simp [countGaps, State.setReceived, State.setReceipt]
      · simpa [acceptAnnouncement, countGaps, State.setReceived, State.setReceipt] using ih (acceptAnnouncement f w (countGaps 1 s))

@[simp] theorem receiptOpening_keeps (f : Frame) (s : State) :
    (receiptOpening f s).settings = s.settings ∧ (receiptOpening f s).line = s.line ∧
    (receiptOpening f s).ctrl = s.ctrl ∧ (receiptOpening f s).time = s.time ∧
    (receiptOpening f s).members = s.members ∧ (receiptOpening f s).capture = s.capture ∧
    (receiptOpening f s).queue = s.queue ∧ (receiptOpening f s).journal = s.journal ∧
    (receiptOpening f s).port = s.port ∧ (receiptOpening f s).pins = s.pins ∧
    (receiptOpening f s).pending = s.pending := by simp only [receiptOpening]; split <;> simp [countGaps, State.setReceipt]

@[simp] theorem emptyBeaconStep_keeps (f : Frame) (s : State) :
    (emptyBeaconStep f s).settings = s.settings ∧ (emptyBeaconStep f s).line = s.line ∧
    (emptyBeaconStep f s).ctrl = s.ctrl ∧ (emptyBeaconStep f s).time = s.time ∧
    (emptyBeaconStep f s).members = s.members ∧ (emptyBeaconStep f s).capture = s.capture ∧
    (emptyBeaconStep f s).queue = s.queue ∧ (emptyBeaconStep f s).journal = s.journal ∧
    (emptyBeaconStep f s).port = s.port ∧ (emptyBeaconStep f s).pins = s.pins ∧
    (emptyBeaconStep f s).pending = s.pending := by unfold emptyBeaconStep; (repeat' split) <;> simp [countGaps, State.setReceived, State.setReceipt]

@[simp] theorem processBeacon_keeps (f : Frame) (s : State) :
    (processBeacon f s).settings = s.settings ∧ (processBeacon f s).line = s.line ∧
    (processBeacon f s).ctrl = s.ctrl ∧ (processBeacon f s).time = s.time ∧
    (processBeacon f s).members = s.members ∧ (processBeacon f s).capture = s.capture ∧
    (processBeacon f s).queue = s.queue ∧ (processBeacon f s).pins = s.pins ∧
    (processBeacon f s).pending = s.pending := by simp only [processBeacon]; split <;> simp [State.setReceipt]

@[simp] theorem receiptTakeFrame_keeps (i : Bool) (f : Frame) (s : State) :
    (receiptTakeFrame i f s).settings = s.settings ∧ (receiptTakeFrame i f s).line = s.line ∧
    (receiptTakeFrame i f s).ctrl = s.ctrl ∧ (receiptTakeFrame i f s).time = s.time ∧
    (receiptTakeFrame i f s).members = s.members ∧ (receiptTakeFrame i f s).capture = s.capture ∧
    (receiptTakeFrame i f s).queue = s.queue ∧ (receiptTakeFrame i f s).pins = s.pins ∧
    (receiptTakeFrame i f s).pending = s.pending := by unfold receiptTakeFrame; split <;> simp

@[simp] theorem passTime_keeps (dt : Nat) (s : State) :
    (passTime dt s).settings = s.settings ∧ (passTime dt s).members = s.members ∧
    (passTime dt s).queue = s.queue ∧ (passTime dt s).receipts = s.receipts ∧
    (passTime dt s).journal = s.journal ∧ (passTime dt s).pins = s.pins ∧
    (passTime dt s).pending = s.pending := by simp [passTime]

@[simp] theorem sendContent_keeps (o : TransmitOrder) (s : State) :
    (sendContent o s).settings = s.settings ∧ (sendContent o s).receipts = s.receipts ∧
    (sendContent o s).pins = s.pins ∧ (sendContent o s).pending = s.pending := by simp only [sendContent]; split <;> simp

@[simp] theorem clearCounters_keeps (s : State) :
    (clearCounters s).settings = s.settings ∧ (clearCounters s).ctrl = s.ctrl ∧
    (clearCounters s).time = s.time ∧ (clearCounters s).members = s.members ∧
    (clearCounters s).capture = s.capture ∧ (clearCounters s).port = s.port ∧
    (clearCounters s).pins = s.pins ∧ (clearCounters s).pending = s.pending := by simp [clearCounters]

end Sys2Proof.Machine
end

