-- ==== Sys2Proof/Laws/Commands.lean ====
section
/-! SUPPORT. Once for all commands: a property that every host command's function has, every command code has; and a
property of states that every meaning keeps, every step keeps. -/

namespace Sys2Proof.Machine

/-- A property of command functions holds of what a code names if it holds of each of the sixteen (R169). -/
theorem commandOf_ind {P : (State → Answer × State) → Prop}
    (getStatus : P getStatusCommand) (readTime : P readTimeCommand) (readAttention : P readAttentionCommand)
    (readPeer : ∀ n, P (readPeerCommand n)) (readCounts : P readCountsCommand)
    (readRecord : P readRecordCommand) (peekRecord : P peekRecordCommand)
    (inject : ∀ tag, P (injectCommand tag)) (setMask : ∀ m, P (setMaskCommand m))
    (clearCounts : P clearCountsCommand) (writeProfile : ∀ p, P (writeProfileCommand p))
    (writeInput : ∀ n x d c, P (writeInputCommand n x d c)) (start : P startCommand) (leave : P leaveCommand)
    (rejoin : P rejoinCommand) (unknown : P unknownCommand) (code : Byte) (args : List Byte) :
    P (commandOf code args) := by
  unfold commandOf
  split
  · exact getStatus
  · exact readTime
  · exact readAttention
  · exact readPeer _
  · exact readCounts
  · exact readRecord
  · exact peekRecord
  · exact inject _
  · exact setMask _
  · exact clearCounts
  · exact writeProfile _
  · exact writeInput _ _ _ _
  · exact start
  · exact leave
  · exact rejoin
  · exact unknown

/-- What a step answers is what `exec` answers for a command, or one microsecond more of the same state. -/
theorem step_cases {s t : State} (h : step s = .next t) :
    (∃ c rest, s.pending = c :: rest ∧ exec c (s.setPending rest) = .next t) ∨
    (s.pending = [] ∧ ∃ e, s.nextOwnEvent = some e ∧ exec e s = .next t) ∨
    (s.pending = [] ∧ s.nextOwnEvent = none ∧ t = idleMicrosecond s) := by
  unfold step at h
  split at h
  · rename_i c rest hp
    exact .inl ⟨c, rest, hp, h⟩
  · rename_i hp
    split at h
    · rename_i e he
      exact .inr (.inl ⟨hp, e, he, h⟩)
    · rename_i he
      simp only [Host.Outcome.next.injEq] at h
      exact .inr (.inr ⟨hp, he, h.symm⟩)

/-- A property that every meaning keeps, that does not look at the waiting commands, and that the passing of one
microsecond keeps, is kept by every step. -/
theorem step_keeps {P : State → Prop} (meaning : ∀ i s t, P s → exec i s = .next t → P t)
    (waiting : ∀ s q, P s → P (s.setPending q)) (idle : ∀ s, P s → P (idleMicrosecond s)) {s t : State}
    (hs : P s) (h : step s = .next t) : P t := by
  rcases step_cases h with ⟨c, rest, -, h⟩ | ⟨-, e, -, h⟩ | ⟨-, -, rfl⟩
  · exact meaning _ _ _ (waiting _ _ hs) h
  · exact meaning _ _ _ hs h
  · exact idle _ hs

end Sys2Proof.Machine
end

