-- ==== Sys2Proof/Laws/Entries.lean ====
section
/-! SUPPORT. What each change of station state does, once: the causes a raise, a hold of the persistent causes and a
change of state add, and the whole of an entry to LISTEN, DEPARTED, FAULT, INTEGRATE and ACTIVE. -/

namespace Sys2Proof.Machine

/-! ## Causes -/

theorem raise_raised (c d : Cause) (s : State) : (raise d s).raised c = true ↔ s.raised c = true ∨ c = d := by
  cases c <;> cases d <;> simp [raise, State.raised, Cause.mask, Cause.bit]

theorem raiseIf_raised (b : Bool) (c d : Cause) (s : State) :
    (raiseIf b d s).raised c = true ↔ s.raised c = true ∨ (b = true ∧ c = d) := by
  cases b <;> simp [raiseIf, raise_raised]

theorem raiseIf_timeSuspect (b : Bool) (d : Cause) (s : State) : (raiseIf b d s).timeSuspect = s.timeSuspect := by
  simp [State.timeSuspect]

theorem holdPersistent_raised (c : Cause) (s : State) : (holdPersistent s).raised c = true ↔
    s.raised c = true ∨ (s.timeSuspect = true ∧ c = .timeSuspect) ∨ (s.duplicated = true ∧ c = .duplicate) := by
  simp [holdPersistent, raiseIf_raised, or_assoc]

/-- The two states differ, in the Host Port, by the attention set at most. -/
def SamePort (s t : State) : Prop := t.port = { s.port with attention := t.port.attention }

theorem SamePort.of {s t : State} {a : BitVec 9} (h : t.port = { s.port with attention := a }) : SamePort s t := by
  simp [SamePort, h]

theorem SamePort.same {s t : State} (h : t.port = s.port) : SamePort s t := by simp [SamePort, h]

theorem SamePort.trans {s t u : State} (h : SamePort s t) (k : SamePort t u) : SamePort s u := by
  unfold SamePort at *
  rw [k, h]

theorem raiseIf_port (b : Bool) (d : Cause) (s : State) : SamePort s (raiseIf b d s) := by
  cases b <;> exact SamePort.of rfl

theorem holdPersistent_port (s : State) : SamePort s (holdPersistent s) :=
  (raiseIf_port _ _ _).trans (raiseIf_port _ _ _)

/-! ## A change of station state -/

@[simp] theorem changeStation_ctrl (st : StationState) (s : State) :
    (changeStation st s).ctrl = { s.ctrl with station := st } := by simp [changeStation]

@[simp] theorem changeStation_line (st : StationState) (s : State) :
    (changeStation st s).line = { s.line with transmitter := s.line.transmitter.withdraw } := by
  simp [changeStation]

@[simp] theorem changeStation_time (st : StationState) (s : State) :
    (changeStation st s).time = s.time.requalify st := by simp [changeStation]

theorem changeStation_port (st : StationState) (s : State) : SamePort s (changeStation st s) :=
  (SamePort.of (t := raise .stateChange _) rfl).trans (holdPersistent_port _)

theorem changeStation_raised (c : Cause) (st : StationState) (s : State) :
    (changeStation st s).raised c = true ↔ s.raised c = true ∨ c = .stateChange ∨
      ((changeStation st s).timeSuspect = true ∧ c = .timeSuspect) ∨ (st = .faulted ∧ c = .duplicate) := by
  simp only [State.timeSuspect, changeStation_ctrl, changeStation_time]
  unfold changeStation
  rw [holdPersistent_raised, raise_raised]
  simp [State.timeSuspect, State.duplicated, raise, or_assoc]
  rfl

theorem requalify_idle {st : StationState} (h : st ≠ .active) (t : TimeUnit) :
    t.requalify st = { t with quality := t.idleQuality } := by
  cases st <;> simp_all [TimeUnit.requalify, TimeUnit.idleQuality, qualityBy]

theorem timeSuspect_of_idle {t : TimeUnit} {s : State} (h : s.ctrl.station ≠ .config)
    (q : s.time.quality = t.idleQuality) : s.timeSuspect = true := by
  have : (s.ctrl.station != .config) = true := by simpa using h
  simp only [State.timeSuspect, this, q, TimeUnit.idleQuality]
  split <;> rfl

theorem emptied_peer (m : Membership) (n : Nat) (h : n < 16) : m.emptied.peers[n] = m.peers[n].emptied := by
  simp [Membership.emptied, Membership.mapPeers]

theorem State.ext_blocks {s t : State} (settings : s.settings = t.settings) (line : s.line = t.line)
    (ctrl : s.ctrl = t.ctrl) (time : s.time = t.time) (members : s.members = t.members)
    (capture : s.capture = t.capture) (queue : s.queue = t.queue) (receipts : s.receipts = t.receipts)
    (journal : s.journal = t.journal) (port : s.port = t.port) (pins : s.pins = t.pins)
    (pending : s.pending = t.pending) : s = t := by
  cases s
  cases t
  simp_all

/-! ## Entries -/

theorem enterListen_spec (s : State) : ListenEntered s (enterListen s) := by
  have suspect : (enterListen s).timeSuspect = true := timeSuspect_of_idle (t := s.time) (by simp [enterListen])
    (by simp [enterListen, requalify_idle, TimeUnit.idleQuality])
  constructor
  · simp [enterListen, State.listenDuration]
  · simp [enterListen]
  · simp [enterListen, requalify_idle, TimeUnit.idleQuality]
  · exact ⟨fun n => by simp [enterListen, emptied_peer, PeerEntry.emptied], by simp [enterListen, Membership.emptied]⟩
  · refine ⟨fun c => ?_, (SamePort.of rfl).trans (changeStation_port _ _)⟩
    simp only [enterListen] at suspect ⊢
    rw [changeStation_raised, suspect]
    simp [State.raised]
  · apply State.ext_blocks <;> simp [enterListen]

theorem finalRelease_released (j : Journal) :
    j.finalRelease.released = j.released ++ j.unreleased.map fun r => { r with forced := true } := by
  unfold Journal.finalRelease
  cases h : j.unreleased.getLast? <;> simp_all

theorem finalRelease_rest (j : Journal) : j.finalRelease = { j with
    released := j.finalRelease.released
    unreleased := []
    horizon := (j.unreleased.getLast?.map (·.time)).or j.horizon
    forced := if j.unreleased = [] then j.forced else min (j.forced + j.unreleased.length) 65535 } := by
  unfold Journal.finalRelease
  cases h : j.unreleased.getLast? with
  | none =>
    have : j.unreleased = [] := by simpa using h
    simp [← this]
  | some r =>
    have : j.unreleased ≠ [] := fun e => by simp [e] at h
    simp [this, countUp]

theorem retire_spec {st : StationState} (dep : st = .departed ∨ st = .faulted) (s : State) :
    Retired st s (retire st (if st = .departed then s.setQueue s.queue.discard else s)) := by
  generalize hu : (if st = .departed then s.setQueue s.queue.discard else s) = u
  have active : st ≠ .active := by rcases dep with rfl | rfl <;> simp
  have config : st ≠ .config := by rcases dep with rfl | rfl <;> simp
  have same : u = s.setQueue (if st = .departed then s.queue.discard else s.queue) := by
    rw [← hu]
    split <;> rfl
  have suspect : (retire st u).timeSuspect = true := timeSuspect_of_idle (t := u.time) (by simp [retire, config])
    (by simp [retire, requalify_idle active, TimeUnit.idleQuality])
  constructor
  · simp [retire, same]
  · simp [retire, same]
  · simp [retire, requalify_idle active, TimeUnit.idleQuality, same]
  · exact ⟨fun n => by simp [retire, emptied_peer, PeerEntry.emptied, same], by simp [retire, Membership.emptied]⟩
  · simp [retire, same]
  · simp only [retire, changeStation_keeps, same, OutboundQueue.discard, countUp]
    split <;> rfl
  · simp [retire, same, finalRelease_released]
  · have h := finalRelease_rest s.journal
    simpa [retire, same] using h
  · refine ⟨fun c => ?_, (SamePort.of (a := s.port.attention) (by simp [same])).trans (changeStation_port _ _)⟩
    simp only [retire] at suspect ⊢
    rw [changeStation_raised, suspect]
    simp [State.raised, same]
    tauto
  · simp [retire, same]

theorem enterDeparted_spec (s : State) : Retired .departed s (enterDeparted s) := retire_spec (.inl rfl) s

theorem enterFault_spec (s : State) : Retired .faulted s (enterFault s) := retire_spec (.inr rfl) s

theorem enterIntegrate_spec (f : Frame) (localAt : Nat) (s : State) :
    IntegrateEntered f (s.time.localCounter - localAt) s (enterIntegrate f localAt s) := by
  have suspect : (enterIntegrate f localAt s).timeSuspect = true := by
    simp [enterIntegrate, restartSlotTimer, State.timeSuspect, TimeUnit.replace, TimeUnit.requalify, qualityBy]
  have now : (enterIntegrate f localAt s).commonTime =
      (s.setTime (s.time.replace (s.adoptedCount f localAt))).commonTime := by
    simp [enterIntegrate, restartSlotTimer, State.commonTime, State.roundLength, TimeUnit.requalify, TimeUnit.count]
  constructor
  · rw [now]
    simp [enterIntegrate, restartSlotTimer]
  · simp [enterIntegrate, restartSlotTimer, TimeUnit.count, TimeUnit.replace, TimeUnit.moveTo, TimeUnit.requalify,
      State.adoptedCount, Profile.sofOffset]
    norm_cast
  · simp [enterIntegrate, restartSlotTimer, TimeUnit.replace, TimeUnit.moveTo, TimeUnit.requalify, qualityBy]
  · simp [enterIntegrate, restartSlotTimer]
  · refine ⟨fun c => ?_, (SamePort.of rfl).trans (changeStation_port _ _)⟩
    simp only [enterIntegrate] at suspect ⊢
    rw [changeStation_raised, suspect]
    simp [State.raised, restartSlotTimer]
  · apply State.ext_blocks <;> simp [enterIntegrate, restartSlotTimer]

theorem sessionAtEntry_eq (s : State) : s.sessionAtEntry = s.entrySession := by
  have low : (s.commonTime.round.setWidth 16 : Session) = BitVec.ofNat 16 (s.commonTime.round.toNat % 65536) := by
    apply BitVec.eq_of_toNat_eq
    simp
  cases h : s.ctrl.session <;> simp only [State.sessionAtEntry, State.entrySession, h, low]

theorem mem_allStations (n : StationNo) : n ∈ allStations := by revert n; decide

theorem any_allStations (test : StationNo → Bool) : allStations.any test = true ↔ ∃ n, test n = true := by
  simp only [List.any_eq_true]
  exact ⟨fun ⟨n, _, h⟩ => ⟨n, h⟩, fun ⟨n, h⟩ => ⟨n, mem_allStations n, h⟩⟩

theorem enterActive_spec (fromIntegrate : Bool) (b : SlotStart) (s : State) :
    ActiveEntered fromIntegrate b s (enterActive fromIntegrate b s) := by
  have session := sessionAtEntry_eq s
  constructor
  · simp [enterActive, membershipEnterActive, session]
  · simp [enterActive, membershipEnterActive, session, OutboundQueue.takeSession]
  · intro n
    cases fromIntegrate <;>
      simp [enterActive, membershipEnterActive, Membership.mapPeers, PeerEntry.admitHeard]
  · cases fromIntegrate <;> simp [enterActive, membershipEnterActive]
  · simp [enterActive, membershipEnterActive, TimeUnit.requalify]
  · simp [enterActive, membershipEnterActive]
  · simp [enterActive, membershipEnterActive, session]
  · refine ⟨fun c => ?_, ?_⟩
    · simp only [enterActive, membershipEnterActive]
      rw [raiseIf_raised, raiseIf_timeSuspect]
      simp only [changeStation_keeps, Bool.and_eq_true]
      rw [any_allStations, show ∀ (u : State) m, (u.setMembers m).raised c = u.raised c from fun _ _ => rfl,
        changeStation_raised, show ∀ (u : State) m, (u.setMembers m).timeSuspect = u.timeSuspect from fun _ _ => rfl]
      generalize State.timeSuspect _ = z
      show (s.raised c = true ∨ _) ∨ _ ↔ _
      simp
      tauto
    · refine SamePort.trans ?_ (raiseIf_port _ _ _)
      refine SamePort.trans ?_ (SamePort.same (State.setMembers_port _ _))
      exact (SamePort.of rfl).trans (changeStation_port _ _)
  · simp [enterActive, membershipEnterActive]

end Sys2Proof.Machine
end

