-- ==== Sys2Proof/Laws/Order.lean ====
section
/-! SUPPORT. Common time and the Journal's key are ordered: the laws of `earlier`, `notAfter`, `earliest` and
`keyEarlier` (00_scope "Time", R124). -/

namespace Sys2Proof

theorem CommonTime.earlier_iff (a b : CommonTime) :
    a.earlier b = true ↔ a.round < b.round ∨ (a.round = b.round ∧ a.offset < b.offset) := by
  simp [CommonTime.earlier]

theorem CommonTime.earlier_irrefl (a : CommonTime) : a.earlier a = false := by
  simp [CommonTime.earlier]

theorem CommonTime.earlier_trans {a b c : CommonTime} (h : a.earlier b = true) (k : b.earlier c = true) :
    a.earlier c = true := by
  rw [earlier_iff] at *
  simp only [BitVec.lt_def, BitVec.toNat_inj.symm] at *
  omega

theorem CommonTime.earlier_asymm {a b : CommonTime} (h : a.earlier b = true) : b.earlier a = false := by
  by_contra hc
  have := earlier_trans h (by simpa using hc)
  simp [earlier_irrefl] at this

/-- Any two common times are comparable. -/
theorem CommonTime.earlier_total (a b : CommonTime) : a.earlier b = true ∨ a = b ∨ b.earlier a = true := by
  obtain ⟨ra, oa⟩ := a
  obtain ⟨rb, ob⟩ := b
  simp only [earlier_iff, CommonTime.mk.injEq, BitVec.lt_def, BitVec.toNat_inj.symm]
  omega

theorem CommonTime.notAfter_iff (a b : CommonTime) : a.notAfter b = true ↔ a = b ∨ a.earlier b = true := by
  rcases earlier_total a b with h | rfl | h
  · simp [notAfter, h, earlier_asymm h]
  · simp [notAfter, earlier_irrefl]
  · have ne : a ≠ b := by rintro rfl; simp [earlier_irrefl] at h
    simp [notAfter, h, earlier_asymm h, ne]

/-- A time that is not after another is not after any later one. -/
theorem CommonTime.not_earlier_trans {a b c : CommonTime} (h : b.earlier a = false) (k : c.earlier b = false) :
    c.earlier a = false := by
  by_contra hc
  replace hc : c.earlier a = true := by simpa using hc
  rcases earlier_total a b with hb | rfl | hb
  · have := earlier_trans hc hb
    simp_all
  · simp_all
  · simp_all

namespace Machine

theorem JournalRecord.keyEarlier_iff (a b : JournalRecord) :
    a.keyEarlier b = true ↔ a.time.earlier b.time = true ∨ (a.time = b.time ∧ a.origin < b.origin) := by
  simp [JournalRecord.keyEarlier]

theorem JournalRecord.keyEarlier_asymm {a b : JournalRecord} (h : a.keyEarlier b = true) :
    b.keyEarlier a = false := by
  by_contra hc
  rw [Bool.not_eq_false, keyEarlier_iff] at hc
  rw [keyEarlier_iff] at h
  rcases h with h | ⟨h, h'⟩ <;> rcases hc with k | ⟨k, k'⟩
  · simp [CommonTime.earlier_asymm h] at k
  · simp [k, CommonTime.earlier_irrefl] at h
  · simp [h, CommonTime.earlier_irrefl] at k
  · exact absurd h' (Fin.lt_asymm k')

/-- Key order is transitive, equal keys included. -/
theorem JournalRecord.keyNotAfter_trans {a b c : JournalRecord} (h : a.keyNotAfter b) (k : b.keyNotAfter c) :
    a.keyNotAfter c := by
  unfold keyNotAfter at *
  by_contra hc
  rw [Bool.not_eq_false, keyEarlier_iff] at hc
  rw [Bool.eq_false_iff, Ne, keyEarlier_iff, not_or] at h k
  rcases CommonTime.earlier_total a.time b.time with hab | hab | hab
  · rcases hc with hc | ⟨hc, -⟩
    · exact k.1 (CommonTime.earlier_trans hc hab)
    · exact k.1 (hc ▸ hab)
  · rcases hc with hc | ⟨hc, ho⟩
    · exact k.1 (hab ▸ hc)
    · have h1 := fun x => h.2 ⟨hab.symm, x⟩
      have h2 := fun x => k.2 ⟨hc.trans hab, x⟩
      exact h2 (Fin.lt_of_lt_of_le ho (Fin.not_lt.mp h1))
  · exact h.1 hab

/-- A record that stands before another is not stamped later. -/
theorem JournalRecord.keyNotAfter_time {a b : JournalRecord} (h : a.keyNotAfter b) :
    b.time.earlier a.time = false := by
  unfold keyNotAfter at h
  rw [Bool.eq_false_iff, Ne, keyEarlier_iff, not_or] at h
  simpa using h.1

end Machine

end Sys2Proof
end

