-- ==== Sys2Proof/Laws/Journal.lean ====
section
/-! SUPPORT. What each operation of the Journal does to its form (Journal.Ordered) and to its size, once for each. -/

namespace Sys2Proof.Machine

theorem placeByKey_length (r : JournalRecord) (l : List JournalRecord) :
    (placeByKey r l).length = l.length + 1 := by
  induction l with
  | nil => rfl
  | cons x xs ih => simp only [placeByKey]; split <;> simp [ih]

theorem mem_placeByKey (r a : JournalRecord) (l : List JournalRecord) :
    a ∈ placeByKey r l ↔ a = r ∨ a ∈ l := by
  induction l with
  | nil => simp [placeByKey]
  | cons x xs ih => simp only [placeByKey]; split <;> simp [ih]; grind

theorem placeByKey_sorted (r : JournalRecord) {l : List JournalRecord}
    (h : l.Pairwise JournalRecord.keyNotAfter) : (placeByKey r l).Pairwise JournalRecord.keyNotAfter := by
  induction l with
  | nil => simp [placeByKey]
  | cons x xs ih =>
    simp only [placeByKey]
    have hx : ∀ a ∈ xs, x.keyNotAfter a := fun _ => List.rel_of_pairwise_cons h
    split
    case isTrue hr =>
      have hrx : r.keyNotAfter x := JournalRecord.keyEarlier_asymm hr
      refine List.Pairwise.cons (fun a ha => ?_) h
      rcases List.mem_cons.mp ha with rfl | ha
      · exact hrx
      · exact JournalRecord.keyNotAfter_trans hrx (hx a ha)
    case isFalse hr =>
      refine List.Pairwise.cons (fun a ha => ?_) (ih h.of_cons)
      rcases (mem_placeByKey r a xs).mp ha with rfl | ha
      · simpa [JournalRecord.keyNotAfter] using hr
      · exact hx a ha

theorem Journal.isLate_iff (j : Journal) (r : JournalRecord) :
    j.isLate r = true ↔ ∃ h, j.horizon = some h ∧ r.time.notAfter h = true := by
  unfold Journal.isLate
  cases j.horizon <;> simp

theorem Journal.place_held (j : Journal) (r : JournalRecord) : (j.place r).held = j.held + 1 := by
  unfold Journal.place Journal.held
  split <;> simp [placeByKey_length] <;> omega

theorem Journal.place_pinned (j : Journal) (r : JournalRecord) : (j.place r).pinned = j.pinned := by
  unfold Journal.place; split <;> rfl

/-- Placing a record keeps the form, but for the room (R126, R128). -/
theorem Journal.place_ordered {j : Journal} (r : JournalRecord) (h : j.Ordered) (room : j.held < 256) :
    (j.place r).Ordered where
  held := by rw [place_held]; omega
  sorted := by
    unfold Journal.place
    split
    · exact h.sorted
    · exact placeByKey_sorted r h.sorted
  beyond := by
    unfold Journal.place
    split
    case isTrue => exact h.beyond
    case isFalse late =>
      intro t ht a ha
      rcases (mem_placeByKey r a _).mp ha with rfl | ha
      · by_contra hc
        have ht' : j.horizon = some t := ht
        exact late (by simpa [isLate, ht', CommonTime.notAfter] using hc)
      · exact h.beyond t ht a ha
  pin := by
    unfold Journal.place
    split
    · intro _; simp
    · exact h.pin

theorem Journal.discardReleased_ordered {j k : Journal} (h : j.Ordered) (hk : j.discardReleased = some k) :
    k.Ordered ∧ k.held + 1 = j.held := by
  unfold Journal.discardReleased at hk
  have hh := h.held
  split at hk <;> simp only [Option.some.injEq, reduceCtorEq] at hk <;> subst hk
  · rename_i hp hr
    simp only [Journal.held, hr, List.length_cons] at hh ⊢
    exact ⟨⟨by simp only [Journal.held]; omega, h.sorted, h.beyond, by simp [hp]⟩, by omega⟩
  · rename_i hr
    simp only [Journal.held, hr, List.length_cons] at hh ⊢
    exact ⟨⟨by simp only [Journal.held, List.length_cons]; omega, h.sorted, h.beyond, by simp⟩, by omega⟩

/-- A forced release moves every record of the earliest timestamp, and loses none (R135). -/
theorem Journal.forcedRelease_ordered {j : Journal} (h : j.Ordered) :
    j.forcedRelease.Ordered ∧ j.forcedRelease.held = j.held := by
  unfold Journal.forcedRelease
  split
  · exact ⟨h, rfl⟩
  · rename_i first rest hu
    have count (l : List JournalRecord) :
        (l.filter fun r => r.time == first.time).length + (l.filter fun r => r.time != first.time).length
          = l.length := by
      induction l with
      | nil => rfl
      | cons x xs ih => by_cases hx : x.time = first.time <;> simp [hx] at ih ⊢ <;> omega
    have size : Journal.held { j with
        released := j.released ++ (j.unreleased.filter fun r => r.time == first.time).map fun r =>
          { r with forced := true }
        unreleased := j.unreleased.filter fun r => r.time != first.time } = j.held := by
      simp only [Journal.held, List.length_append, List.length_map]
      have := count j.unreleased
      omega
    refine ⟨⟨?_, h.sorted.filter _, ?_, fun hp => by simp [h.pin hp]⟩, size⟩
    · exact size.symm ▸ h.held
    · intro t ht a ha
      simp only [Option.some.injEq] at ht
      subst ht
      simp only [List.mem_filter, bne_iff_ne, ne_eq] at ha
      have sorted := hu ▸ h.sorted
      have : a ∈ rest := by
        rcases List.mem_cons.mp (hu ▸ ha.1) with rfl | hr
        · exact absurd rfl ha.2
        · exact hr
      have before := JournalRecord.keyNotAfter_time (List.rel_of_pairwise_cons sorted this)
      rcases CommonTime.earlier_total first.time a.time with k | k | k
      · exact k
      · exact absurd k.symm ha.2
      · simp [before] at k

/-- The discard by key keeps the form and the size (R134, R135). -/
theorem Journal.discardByKey_ordered {j : Journal} (r : JournalRecord) (h : j.Ordered) :
    (j.discardByKey r).Ordered ∧ (j.discardByKey r).held = j.held := by
  have counted (n : Nat) : Journal.Ordered { j with overflow := n } := ⟨h.held, h.sorted, h.beyond, h.pin⟩
  unfold Journal.discardByKey
  split
  · rename_i hd
    have ne : j.unreleased ≠ [] := by
      intro hn; simp [Journal.displaces, hn] at hd
    have len : 0 < j.unreleased.length := List.length_pos_iff.mpr ne
    have hh := h.held
    have dropped (n : Nat) : Journal.Ordered { j with unreleased := j.unreleased.dropLast, overflow := n } := by
      refine ⟨?_, h.sorted.sublist (List.dropLast_sublist _), ?_, h.pin⟩
      · simp only [Journal.held, List.length_dropLast] at hh ⊢; omega
      · exact fun t ht a ha => h.beyond t ht a (List.dropLast_subset _ ha)
    have room (n : Nat) : Journal.held { j with unreleased := j.unreleased.dropLast, overflow := n } + 1 = j.held := by
      simp only [Journal.held, List.length_dropLast]; omega
    have placed := place_ordered r (dropped (countUp j.overflow 1)) (by have := room (countUp j.overflow 1); omega)
    obtain ⟨o, e⟩ := forcedRelease_ordered placed
    exact ⟨o, by rw [e, place_held]; exact room _⟩
  · exact forcedRelease_ordered (counted _)

/-- Making room and placing keeps the form: the Journal never holds more than 256 records (R133). -/
theorem Journal.admitRecord_ordered {j : Journal} (r : JournalRecord) (h : j.Ordered) : (j.admitRecord r).Ordered := by
  unfold Journal.admitRecord
  have hh := h.held
  split
  · split
    · rename_i hk
      obtain ⟨o, e⟩ := discardReleased_ordered h hk
      exact place_ordered r o (by omega)
    · exact (discardByKey_ordered r h).1
  · rename_i hf
    exact place_ordered r h (by simpa [Journal.isFull] using hf)

/-- Every insertion keeps the form (R125 to R135). -/
theorem Journal.insert_ordered {j : Journal} (r : JournalRecord) (h : j.Ordered) : (j.insert r).Ordered := by
  unfold Journal.insert
  split
  · exact h
  · exact admitRecord_ordered r h

/-- A move of the horizon to a time that is not earlier keeps the form (R128 to R130). -/
theorem Journal.releaseThrough_ordered {j : Journal} (h : CommonTime) (o : j.Ordered) :
    (j.releaseThrough h).Ordered where
  held := by
    have count (l : List JournalRecord) :
        (l.filter fun r => r.time.notAfter h).length + (l.filter fun r => !r.time.notAfter h).length
          = l.length := by
      induction l with
      | nil => rfl
      | cons x xs ih => cases hx : x.time.notAfter h <;> simp [hx] at ih ⊢ <;> omega
    have hh := o.held
    have := count j.unreleased
    simp only [Journal.releaseThrough, Journal.held, List.length_append] at hh ⊢
    omega
  sorted := o.sorted.filter _
  beyond := by
    intro t ht a ha
    simp only [Journal.releaseThrough, Option.some.injEq] at ht
    subst ht
    simp only [Journal.releaseThrough, List.mem_filter, Bool.not_eq_true'] at ha
    simpa [CommonTime.notAfter] using ha.2
  pin := fun hp => by
    have := o.pin hp
    simp [Journal.releaseThrough, this]

theorem Journal.releaseStep_ordered {j : Journal} (c : CommonTime) (o : j.Ordered) : (j.releaseStep c).Ordered := by
  unfold Journal.releaseStep
  split <;> exact releaseThrough_ordered _ o

/-- The final release keeps the form and empties the unreleased part (R137). -/
theorem Journal.finalRelease_ordered {j : Journal} (o : j.Ordered) :
    j.finalRelease.Ordered ∧ j.finalRelease.unreleased = [] := by
  unfold Journal.finalRelease
  split
  · rename_i hn
    exact ⟨o, List.getLast?_eq_none_iff.mp hn⟩
  · have hh := o.held
    refine ⟨⟨?_, by simp, by simp, fun hp => by simp [o.pin hp]⟩, rfl⟩
    simp only [Journal.held, List.length_append, List.length_map, List.length_nil] at hh ⊢
    omega

theorem JournalRecord.takeSession_key (x : Session) (a b : JournalRecord) :
    (a.takeSession x).keyNotAfter (b.takeSession x) ↔ a.keyNotAfter b := by
  have time (r : JournalRecord) : (r.takeSession x).time = r.time := by
    unfold JournalRecord.takeSession; split <;> rfl
  have origin (r : JournalRecord) : (r.takeSession x).origin = r.origin := by
    unfold JournalRecord.takeSession; split <;> rfl
  simp [JournalRecord.keyNotAfter, JournalRecord.keyEarlier, time, origin]

/-- The taking of a session keeps the form (R127). -/
theorem Journal.takeSession_ordered {j : Journal} (own : StationNo) (x : Session) (o : j.Ordered) :
    (j.takeSession own x).Ordered := by
  have hh := o.held
  have shrink (l : List JournalRecord) :
      ((l.filter (j.staysAt own x)).map (JournalRecord.takeSession x)).length ≤ l.length := by
    simpa using List.length_filter_le _ l
  refine ⟨?_, ?_, ?_, ?_⟩
  · unfold Journal.takeSession Journal.held at *
    have hu := shrink j.unreleased
    simp only
    split
    · rename_i head rest _ hr
      have hr' := shrink rest
      simp only [hr, List.length_cons] at hh ⊢
      omega
    · have hr' := shrink j.released
      omega
  · refine List.Pairwise.map _ ?_ (o.sorted.filter _)
    exact fun a b => (JournalRecord.takeSession_key x a b).mpr
  · intro t ht a ha
    obtain ⟨b, hb, rfl⟩ := List.mem_map.mp ha
    have := o.beyond t ht b (List.mem_of_mem_filter hb)
    unfold JournalRecord.takeSession
    split <;> exact this
  · intro hp
    have ne := o.pin hp
    have hp' : j.pinned = true := hp
    unfold Journal.takeSession
    simp only
    split
    · simp
    · rename_i hn
      cases hr : j.released with
      | nil => exact absurd hr ne
      | cons a l => exact absurd hr (hn a l hp')

theorem Journal.rejoin_ordered {j : Journal} (o : j.Ordered) : j.rejoin.Ordered := by
  have hh := o.held
  refine ⟨by simpa [Journal.rejoin, Journal.held] using hh, ?_, by simp [Journal.rejoin], ?_⟩
  · refine List.Pairwise.map _ ?_ o.sorted
    exact fun a b h => h
  · intro hp
    simpa [Journal.rejoin] using o.pin hp

theorem Journal.completeRead_ordered {j : Journal} (o : j.Ordered) : j.completeRead.Ordered := by
  have hh := o.held
  unfold Journal.completeRead
  split
  · refine ⟨?_, o.sorted, o.beyond, by simp⟩
    simp only [Journal.held, List.length_tail] at hh ⊢
    omega
  · exact o

theorem Journal.abandonRead_ordered {j : Journal} (o : j.Ordered) : j.abandonRead.Ordered :=
  ⟨o.held, o.sorted, o.beyond, by simp [Journal.abandonRead]⟩

end Sys2Proof.Machine
end

