-- ==== Sys2Proof/Laws/Kept.lean ====
section
/-! SUPPORT. One induction over all meanings: a property of states that every shared operation keeps, in the states in
which it is used, is kept by `exec` and by `step`. -/

namespace Sys2Proof.Machine

/-! ## Each host command's row is the command of its bytes -/

theorem field_bytesOf_two (n : Nat) (rest : List Byte) (h : n < 65536) : field (bytesOf 2 n ++ rest) 0 2 = n := by
  simp [field, bytesOf]
  omega

theorem argumentBytes_unknown {code : Byte} (h : (!knownCodes.contains code) = true) : argumentBytes code = none := by
  revert code
  decide

theorem commandOf_unknown {code : Byte} (h : argumentBytes code = none) (args : List Byte) :
    commandOf code args = unknownCommand := by
  unfold argumentBytes at h
  unfold commandOf
  split at h <;> simp_all

/-- The row of a host command takes the command that its bytes name (R147, R169). -/
theorem exec_hostCommand {i : Instr} (wf : i.wellFormed = true) {bytes : List Byte}
    (h : hostCommandBytes i = some bytes) (s : State) :
    ∃ code args, bytes = code :: args ∧ completeCommand bytes = true ∧
      exec i s = .next (takeCommand bytes (commandOf code args) s) := by
  cases i <;> simp only [hostCommandBytes, Option.some.injEq, reduceCtorEq] at h <;> subst h
  case inject tag =>
    refine ⟨_, _, rfl, rfl, ?_⟩
    have := field_bytesOf_two tag.toNat [] tag.isLt
    simp only [List.append_nil] at this
    show _ = Host.Outcome.next (takeCommand _ (injectCommand (BitVec.ofNat 16 (field _ 0 2))) s)
    rw [this]; simp [exec, execInject]
  case setMask causes =>
    refine ⟨_, _, rfl, rfl, ?_⟩
    have := field_bytesOf_two causes.toNat [] causes.isLt
    simp only [List.append_nil] at this
    show _ = Host.Outcome.next (takeCommand _ (setMaskCommand (BitVec.ofNat 16 (field _ 0 2))) s)
    rw [this]; simp [exec, execSetMask]
  case writeProfile sc sl w cl x g =>
    refine ⟨0x40, _, rfl, rfl, ?_⟩
    have profile : profileArgument ([sc] ++ bytesOf 2 sl.toNat ++ [w, cl, x] ++ bytesOf 2 g.toNat) =
        { slotCount := sc.toNat, slotLength := sl.toNat, window := w.toNat, correctionLimit := cl.toNat
          exclusion := x.toNat, guard := g.toNat } := by
      have := sl.isLt
      have := g.isLt
      simp only [profileArgument, field, bytesOf]
      simp
      omega
    show _ = Host.Outcome.next (takeCommand _ (writeProfileCommand (profileArgument
      ([sc] ++ bytesOf 2 sl.toNat ++ [w, cl, x] ++ bytesOf 2 g.toNat))) s)
    rw [profile]; rfl
  case unknownCommandCode code =>
    refine ⟨_, _, rfl, ?_⟩
    have none := argumentBytes_unknown wf
    refine ⟨by simp [completeCommand, none], ?_⟩
    simp [exec, execUnknownCommandCode, none, commandOf_unknown none []]
  all_goals exact ⟨_, _, rfl, rfl, rfl⟩

/-! ## The induction -/

/-- Every shared operation keeps a property of states, in the states in which a meaning uses it. -/
structure Kept (P : State → Prop) : Prop where
  inReset : ∀ s, P s → P s.inReset
  endReset : ∀ straps s, P s → s.pins.resetLow = true → P (endReset straps s)
  select : ∀ s low, P s → P (s.setPins { s.pins with selnLow := low })
  begin : ∀ s, P s → s.port.transaction = .idle → s.pins.resetLow = false → P (s.setPort s.port.beginTransaction)
  endTransaction : ∀ s, P s → s.port.transaction ≠ .idle → P (endTransaction s)
  timeout : ∀ s, P s → s.port.transaction = .command ∨ s.port.transaction = .response → P (timeoutTransaction s)
  answer : ∀ code args s, P s → s.port.transaction = .command → completeCommand (code :: args) = true →
    P (answerWith (code :: args) (commandOf code args) s)
  bit : ∀ s n x, P s → n ≤ 7 → s.port.transaction ≠ .idle →
    P (s.setPort { s.port with bitCount := n, shift := x })
  receive : ∀ s bytes, P s → s.port.transaction = .command → P (s.setPort { s.port with received := bytes })
  send : ∀ s, P s → s.port.transaction = .response ∨ s.port.transaction = .discard →
    P (s.setPort { s.port with bytesSent := s.port.bytesSent + 1 })
  pass : ∀ dt s, P s → P (passTime dt s)
  receiver : ∀ s r, P s → s.line.receiverOn = true ∨ r = .idle ∨ s.line.receiver ≠ .idle →
    P (s.setLine { s.line with receiver := r })
  valid : ∀ s, P s → P (s.setLine { s.line with valid := countUp s.line.valid 1 })
  garbled : ∀ s, P s → P (s.setLine { s.line with garbled := countUp s.line.garbled 1 })
  foreign : ∀ s, P s → P (s.setLine { s.line with foreign := countUp s.line.foreign 1 })
  offSlot : ∀ s, P s → P (s.setLine { s.line with offSlot := countUp s.line.offSlot 1 })
  takeGarbled : ∀ s, P s → P (controllerTakeGarbled s)
  takeForeign : ∀ s, P s → P (controllerTakeForeign s)
  controllerFrame : ∀ f localAt s, P s → P (controllerTakeFrame f localAt s)
  timeFrame : ∀ f sof s, P s → P (timeTakeFrame f sof s)
  membershipFrame : ∀ f s, P s → P (membershipTakeFrame f s)
  outboundFrame : ∀ f s, P s → P (outboundTakeFrame f s)
  receiptFrame : ∀ integrating f s, P s → (integrating = true → s.ctrl.station ≠ .config) →
    P (receiptTakeFrame integrating f s)
  startSending : ∀ s o n, P s → s.line.transmitter = .ordered o →
    P (s.setLine { s.line with transmitter := .sendingPreamble o n })
  sofMark : ∀ s o n, P s → s.line.transmitter = .sendingPreamble o n → P (sendContent o s)
  sent : ∀ s o n, P s → s.line.transmitter = .sendingBody o n → P (s.setLine { s.line with transmitter := .idle })
  echo : ∀ s n, P s → n ≤ 65535 ∨ n = s.line.echoFailures →
    P (s.setLine { s.line with echo := none, echoFailures := n })
  takeEcho : ∀ kind good s, P s → P (controllerTakeEcho kind good s)
  nextSlot : ∀ s b c, P s → s.ctrl.slotTimer = some b → P (s.setCtrl { s.ctrl with slotTimer := some c })
  controllerAct : ∀ b s, P s → P (controllerBoundary b s)
  timeAct : ∀ b s, P s → P (timeRoundEnd b s).1
  membershipAct : ∀ b s, P s → P (membershipRoundEnd b s)
  outboundAct : ∀ s, P s → P (outboundRoundEnd s)
  journalAct : ∀ s, P s → P (journalBoundary s)
  correctionReport : ∀ r s, P s → P (takeCorrectionReport r s)
  viewReport : ∀ s, P s → P (takeViewReport s)
  coldstart : ∀ s, P s → s.ctrl.station = .listen → P (enterColdstart s)
  sample : ∀ levels s, P s → s.capture.untilSample.isSome = true → P (takeSample levels s)

/-- A frame never takes a station back to CONFIG (R22, R24, R33). -/
theorem controllerTakeFrame_not_config (f : Frame) (localAt : Nat) {s : State} (h : s.ctrl.station ≠ .config) :
    (controllerTakeFrame f localAt s).ctrl.station ≠ .config := by
  have change (st : StationState) (t : State) : (changeStation st t).ctrl.station = st := by simp [changeStation]
  have line (t : State) : (lineActivity t).ctrl.station = t.ctrl.station := by
    unfold lineActivity; split <;> rfl
  simp only [controllerTakeFrame]
  repeat' split
  all_goals first
    | exact h
    | (rw [line]; exact h)
    | (unfold enterFault retire; rw [change]; simp)
    | (simp only [enterIntegrate]; rw [change]; simp)

theorem Kept.frameActs {P : State → Prop} (k : Kept P) (integrating : Bool) (f : Frame) (sof : CommonTime)
    (localAt : Nat) (acts : List FrameAct) {s : State} (h : P s)
    (c : integrating = true → s.ctrl.station ≠ .config) :
    P (acts.foldl (frameAct integrating f sof localAt) s) := by
  induction acts generalizing s with
  | nil => exact h
  | cons a acts ih =>
    cases a
    · exact ih (k.controllerFrame _ _ _ h) fun hi => controllerTakeFrame_not_config f localAt (c hi)
    · exact ih (k.timeFrame _ _ _ h) (by simpa [frameAct] using c)
    · exact ih (k.membershipFrame _ _ h) (by simpa [frameAct] using c)
    · exact ih (k.outboundFrame _ _ h) (by simpa [frameAct] using c)
    · exact ih (k.receiptFrame _ _ _ h c) (by simpa [frameAct] using c)

theorem State.integratesOn_not_config {f : Frame} {s : State} (h : s.integratesOn f = true) :
    s.ctrl.station ≠ .config := by
  intro hc
  simp [State.integratesOn, hc] at h

theorem Kept.takeBurst {P : State → Prop} (k : Kept P) (bytes : List Byte) (order : List FrameAct) {s : State}
    (h : P s) : P (takeBurst bytes order s) := by
  have settle (c : FrameClass) (t : State) (ht : P t) : P (settleFrame order c t) := by
    unfold settleFrame
    split
    · exact k.takeGarbled _ (k.garbled _ ht)
    · exact k.takeForeign _ (k.foreign _ ht)
    · exact k.offSlot _ ht
    · exact k.frameActs _ _ _ _ _ (k.valid _ ht) State.integratesOn_not_config
  unfold Machine.takeBurst
  split
  · exact h
  all_goals exact settle _ _ (k.receiver _ _ h (.inr (.inl rfl)))

theorem Kept.boundaryActs {P : State → Prop} (k : Kept P) (b : SlotStart) (acts : List BoundaryAct)
    {run : BoundaryRun} (h : P run.state) : P (acts.foldl (boundaryAct b) run).state := by
  induction acts generalizing run with
  | nil => exact h
  | cons a acts ih =>
    refine ih ?_
    cases a <;> simp only [boundaryAct]
    · exact k.controllerAct _ _ h
    · split <;> [exact k.timeAct _ _ h; exact h]
    · split <;> [exact k.membershipAct _ _ h; exact h]
    · split <;> [exact k.outboundAct _ h; exact h]
    · exact k.journalAct _ h
    · split <;> [exact k.correctionReport _ _ h; exact h]
    · split <;> [exact k.viewReport _ h; exact h]

theorem Kept.takeCommand {P : State → Prop} (k : Kept P) {bytes : List Byte} {code : Byte} {args : List Byte}
    (hb : bytes = code :: args) (hc : completeCommand bytes = true) {s : State} (h : P s) :
    P (takeCommand bytes (commandOf code args) s) := by
  subst hb
  unfold Machine.takeCommand
  split
  · exact k.answer _ _ _ h ‹_› hc
  · exact h

theorem Kept.clockBit {P : State → Prop} (k : Kept P) (sdi : Bool) {s : State} (h : P s) : P (clockBit sdi s) := by
  have byte (b : Byte) (t : State) (ht : P t) : P (clockByte b t) := by
    simp only [clockByte]
    split
    · exact ht
    · rename_i htr
      split
      · rename_i hc
        cases hr : t.port.received ++ [b] with
        | nil => simp at hr
        | cons code args =>
          rw [hr] at hc
          exact k.answer code args _ (k.receive _ _ ht htr) htr hc
      · exact k.receive _ _ ht htr
    · exact k.send _ ht (.inl ‹_›)
    · exact k.send _ ht (.inr ‹_›)
  unfold Machine.clockBit
  split
  · exact h
  all_goals
    rename_i htr
    have ne : s.port.transaction ≠ .idle := by simp [htr]
    simp only
    split
    · exact byte _ _ (k.bit _ _ _ h (by omega) ne)
    · exact k.bit _ _ _ h (by omega) ne

/-- A property that every shared operation keeps, every meaning keeps. -/
theorem Kept.exec {P : State → Prop} (k : Kept P) {i : Instr} {s t : State} (h : P s)
    (e : exec i s = .next t) : P t := by
  by_cases hostCommand : i.wellFormed = true ∧ (hostCommandBytes i).isSome = true
  · obtain ⟨wf, some_⟩ := hostCommand
    obtain ⟨bytes, hb⟩ := Option.isSome_iff_exists.mp some_
    obtain ⟨code, args, hb', hc, he⟩ := exec_hostCommand wf hb s
    rw [he, Host.Outcome.next.injEq] at e
    subst e
    exact k.takeCommand hb' hc h
  · cases i <;> simp only [hostCommandBytes, Option.isSome_some, Option.isSome_none, Instr.wellFormed, and_true,
        not_true_eq_false, Bool.not_eq_true, and_false, not_false_eq_true, Bool.false_eq_true] at hostCommand <;>
      simp only [Machine.exec, Host.Outcome.next.injEq, execPowerOnReset, execPinReset, execResetEnd,
        execSelnAsserted, execSelnReleased, execPortTimerExpiry, execUnknownCommandCode, execFrameTaken,
        execPreambleStart, execSofMarkSent, execFrameSent, execEchoResult, execSlotBoundary, execListenTimerExpiry,
        execSampleEvent, execWindowEnd, execHoldEnd, execSckRisingEdge, execBurstBegins, execSofMarkReceived] at e <;>
      subst e
    case powerOnReset => exact k.inReset _ h
    case pinReset => exact k.inReset _ h
    case resetEnd => split <;> [exact k.endReset _ _ h ‹_›; exact h]
    case selnAsserted =>
      split
      · rename_i hc
        simp only [Bool.and_eq_true, decide_eq_true_eq, Bool.not_eq_true'] at hc
        exact k.begin _ (k.select _ _ h) hc.1 hc.2
      · exact k.select _ _ h
    case selnReleased => split <;> [exact k.select _ _ h; exact k.endTransaction _ (k.select _ _ h) ‹_›]
    case portTimerExpiry =>
      split
      · rename_i hu
        refine k.timeout _ (k.pass _ _ h) ?_
        unfold State.untilTimeout at hu
        split at hu
        · exact .inl ‹_›
        · exact .inr ‹_›
        all_goals simp at hu
      · exact h
    case unknownCommandCode code =>
      split
      · rename_i none
        exfalso
        revert hostCommand none
        revert code
        decide +revert
      · exact h
    case frameTaken => exact k.takeBurst _ _ h
    case preambleStart =>
      split
      · rename_i o ho
        refine k.takeBurst _ _ (k.startSending _ o _ (k.pass _ _ h) ?_)
        simp [passTime, Transmitter.pass, ho]
      all_goals exact h
    case sofMarkSent =>
      split
      · rename_i o n ho
        exact k.sofMark _ o (n - n) (k.pass _ _ h) (by simp [passTime, Transmitter.pass, ho])
      all_goals exact h
    case frameSent =>
      split
      · rename_i o n ho
        exact k.sent _ o (n - n) (k.pass _ _ h) (by simp [passTime, Transmitter.pass, ho])
      all_goals exact h
    case echoResult =>
      split
      · exact h
      · refine k.takeEcho _ _ _ (k.echo _ _ h ?_)
        split
        · exact .inr rfl
        · exact .inl (by unfold countUp; omega)
    case slotBoundary =>
      split
      · rename_i b hb
        exact k.boundaryActs _ _ (k.nextSlot _ b _ (k.pass _ _ h) (by simp [passTime, hb]))
      · exact h
    case listenTimerExpiry =>
      split
      · rename_i hs _
        exact k.coldstart _ (k.pass _ _ h) (by simp [passTime, hs])
      · exact h
    case sampleEvent =>
      split
      · rename_i hu
        exact k.sample _ _ (k.pass _ _ h) (by simp [passTime, hu])
      · exact h
    case windowEnd =>
      split
      · rename_i hu
        split
        · exact k.sample _ _ (k.pass _ _ h) (by simp [passTime, hu])
        · exact h
      · exact h
    case holdEnd => exact k.pass _ _ h
    case sckRisingEdge => exact k.clockBit _ h
    case burstBegins =>
      split
      · rename_i hc
        simp only [Bool.and_eq_true] at hc
        exact k.receiver _ _ h (.inl hc.1.1)
      · exact h
    case sofMarkReceived =>
      split
      · rename_i hc
        simp only [Bool.and_eq_true, beq_iff_eq] at hc
        exact k.receiver _ _ h (.inr (.inr (by simp [hc.1])))
      · exact h

/-- A property that every shared operation keeps and that does not look at the waiting commands, every step keeps. -/
theorem Kept.step {P : State → Prop} (k : Kept P) (waiting : ∀ s q, P s → P (s.setPending q)) {s t : State}
    (h : P s) (e : step s = .next t) : P t :=
  step_keeps (P := P) (fun _ _ _ h e => k.exec h e) waiting
    (fun s h => by unfold idleMicrosecond; split <;> [exact h; exact k.pass _ _ h]) h e

end Sys2Proof.Machine
end

