-- ==== Sys2Proof/Tests/Slice0.lean ====
section
/-! SUPPORT. Tests of single commands against the worked examples and tables of spec/, the refusals of WellFormed, and
for each statement with hypotheses a concrete state and operands that meet them. -/

namespace Sys2Proof.Tests

open Sys2Proof Sys2Proof.Machine

/-! ## Helpers -/

/-- The state after one command. -/
def after (i : Instr) (s : State) : State :=
  match exec i s with
  | .next t => t
  | .fault _ => s
  | .refused _ => s

/-- The port as it stands after SELN_ASSERTED. -/
def inCommand (s : State) : State :=
  s.setPort { s.port with transaction := .command, timer := some 0, received := [], buffer := [], bytesSent := 0 }

/-- A station after its reset, with this number on its straps. -/
def fresh (n : StationNo) : State := State.reset.setSettings { Settings.reset with stationNumber := n }

/-- A station that has taken START with the default profile; the transaction is over and attention has been read. Its
signature is written out (test_signature_default). -/
def listening (n : StationNo) : State :=
  ((after .start (inCommand (fresh n))).setPort .reset).setSettings
    { (fresh n).settings with frozen := true, signature := some 0xC4B6 }

/-- A station whose common time is this one. -/
def at_ (round offset : Nat) (s : State) : State :=
  s.setTime { s.time with correctionOffset := ((round * s.roundLength + offset : Nat) : Int) - s.time.localCounter }

/-- An admitted peer. -/
def member : PeerEntry := { PeerEntry.reset with state := .member, heardCount := 2 }

/-- A station in ACTIVE at a common time, SOUND, with stations 2 and 7 as members (section 1.8). -/
def activeAt (n : StationNo) (round offset : Nat) : State :=
  let s := at_ round offset (listening n)
  { s with
    ctrl := { s.ctrl with
      station := .active, listenTimer := none, session := some 640, lastUsedSession := some 640
      slotTimer := some (slotStartAfter s.settings.profile s.commonTime) }
    time := { s.time with
      quality := .sound
      lastCorrection := some { round := 0, count := 2, midpoint := some 0, applied := some 0, clamped := false } }
    members := { s.members with peers := (Vector.replicate 16 .reset).set 2 member |>.set 7 member } }

/-- A BEACON of a station with the default profile. -/
def beacon (n : StationNo) (round : Round) : Frame :=
  { kind := .beacon, station := n, signature := 0xC4B6, session := 1300, round := round
    departing := false, leavePending := false, quality := .sound, view := 0x00A4, issuedThrough := none
    watermark := none, receipts := Vector.replicate 16 none, announcements := [] }

/-- The receiver in FRAME with this stamp, taken at the local counter's value. -/
def hearing (round : Round) (offset : Nat) (s : State) : State :=
  s.setLine { s.line with receiver := .frame { round := round, offset := offset } s.time.localCounter }

/-- A queued record of session 640. -/
def queued (q : Sequence) (round : Round) (offset : Nat) (announced : Bool) : QueuedRecord :=
  { sequence := q, session := some 640, time := { round := round, offset := offset }, source := 1, kind := .fall
    value := 0, quality := .sound, announced := announced }

/-- A Journal record of station 7. -/
def entry (q : Sequence) (round : Round) (offset : Nat) : JournalRecord :=
  { origin := 7, session := some 1300, sequence := q, time := { round := round, offset := offset }, source := 3
    kind := .rise, value := 0, quality := .sound, late := false, forced := false, awaiting := false }

/-! ## Well-formedness -/

/-- R150, R169: 0x10 is READ_RECORD, so it is no unknown code. -/
theorem test_wellFormed_refuses_known_code : (Instr.unknownCommandCode 0x10).wellFormed = false := by decide
theorem test_wellFormed_accepts_unknown_code : (Instr.unknownCommandCode 0x53).wellFormed = true := by decide
theorem test_wellFormed_refuses_block_twice_frame :
    (Instr.frameTaken [] [.controller, .controller]).wellFormed = false := by decide
theorem test_wellFormed_refuses_block_twice_preamble :
    (Instr.preambleStart [] [.receipt, .outbound, .receipt]).wellFormed = false := by decide
theorem test_wellFormed_refuses_block_twice_boundary :
    (Instr.slotBoundary [.journal, .timeUnit, .journal]).wellFormed = false := by decide
theorem test_no_word_spells_a_command : decodeTableWord 8 0x10 = none ∧ State.reset.withFetchWord 8 0x10 = State.reset := by
  decide

/-! ## Resets and straps -/

/-- R165: after a reset the mask holds all nine causes. -/
theorem test_powerOnReset_mask : (after .powerOnReset (activeAt 5 800 2100)).port.mask = 0x1FF := by decide
/-- R16: the pin reset returns the station to CONFIG and the settings to the defaults of R171. -/
theorem test_pinReset_config :
    (after .pinReset (activeAt 5 800 2100)).ctrl.station = .config ∧
      (after .pinReset (activeAt 5 800 2100)).settings.profile.slotLength = 1000 := by decide
/-- Section 10.8: the strap pins read 12. -/
theorem test_resetEnd_straps : (after (.resetEnd 12) (after .pinReset (fresh 3))).own = 12 := by decide

/-! ## Transactions -/

/-- Section 9.7, first row. -/
theorem test_selnAsserted_command : (after .selnAsserted (fresh 5)).port.transaction = .command := by decide

/-- Section 9.7: records K and M released, READ_RECORD taken, and this many bytes clocked out. -/
def reading (sent : Nat) : State :=
  let s := fresh 5
  let held := s.setJournal { s.journal with released := [entry 1 10 20, entry 2 10 30] }
  let t := after .readRecord (inCommand held)
  t.setPort { t.port with bytesSent := sent }

/-- Section 9.7: eleven bytes, the read is abandoned; seventeen, K is removed. -/
theorem test_selnReleased_abandons : ((after .selnReleased (reading 11)).journal.released.length = 2) ∧
    (after .selnReleased (reading 11)).journal.pinned = false := by decide
theorem test_selnReleased_completes : (after .selnReleased (reading 17)).journal.released = [entry 2 10 30] := by decide
/-- Section 9.7, last sentences: the timeout abandons the read and raises PORT_TIMEOUT, and ATTN is asserted. -/
theorem test_portTimerExpiry_abandons :
    (after .portTimerExpiry (reading 11)).journal.released.length = 2 ∧
      (after .portTimerExpiry (reading 11)).port.attention = 0x040 ∧
      (after .portTimerExpiry (reading 11)).attn = true := by decide
/-- R147: the first edge of 0x10 is its most significant bit, 0; after four edges 0001 has been clocked in. -/
theorem test_sckRisingEdge_most_significant_first :
    (execAll [.sckRisingEdge false, .sckRisingEdge false, .sckRisingEdge false, .sckRisingEdge true]
      (inCommand (fresh 5)) matches .next { port := { shift := 1, bitCount := 4, .. }, .. }) := by decide
/-- R150: a code of no command is answered with ARG. -/
theorem test_unknownCommandCode_arg :
    (after (.unknownCommandCode 0x53) (inCommand (fresh 5))).port.buffer = [0x03] := by decide

/-! ## Reading commands -/

/-- R151, R169: in CONFIG state 0, quality NONE, the own number alone in the view, counts 0, session none. -/
theorem test_getStatus_config : (after .getStatus (inCommand (fresh 5))).port.buffer =
    [0x00, 0x00, 0x03, 0x00, 0x20, 0x00, 0x00, 0x00, 0x00, 0x00, 0x00, 0x00] := by decide
/-- Section 3.9, "A clamped correction", read in the layout of R169: round 410, n = 3, m = 9, c = -5, clamped. -/
theorem test_readTime_clamped :
    let s := activeAt 5 411 5
    (after .readTime (inCommand (s.setTime { s.time with
      quality := .suspect
      lastCorrection := some { round := 410, count := 3, midpoint := some 9, applied := some (-5), clamped := true }
    }))).port.buffer =
      [0x00, 0x00, 0x00, 0x00, 0x01, 0x9B, 0x00, 0x05, 0x02, 0x07, 0x00, 0x00, 0x00, 0x01, 0x9A, 0x03, 0x09, 0xFB] := by
  decide
/-- Section 11.6, last row: STATE_CHANGE, MEMBER_JOIN and TIME_SUSPECT are read, and none is left at quality SOUND. -/
theorem test_readAttention_empties :
    let s := activeAt 5 507 100
    let t := after .readAttention (inCommand (s.setPort { s.port with attention := 0x083 }))
    t.port.buffer = [0x00, 0x00, 0x83] ∧ t.port.attention = 0 := by decide
/-- R163, section 11.6: at quality SUSPECT the reading leaves TIME_SUSPECT in the set. -/
theorem test_readAttention_keeps_persistent :
    let s := listening 5
    (after .readAttention (inCommand (s.setPort { s.port with attention := 0x083 }))).port.attention = 0x080 := by decide
/-- R154: an argument above 15 is answered with ARG. -/
theorem test_readPeer_arg : (after (.readPeer 16) (inCommand (fresh 5))).port.buffer = [0x03] := by decide
/-- R154, R169: a member heard at two round ends, with nothing else known. -/
theorem test_readPeer_member : (after (.readPeer 7) (inCommand (activeAt 5 800 2100))).port.buffer.take 6 =
    [0x00, 0x07, 0x02, 0x02, 0x00, 0x00] := by decide
/-- Section 11.6: two garbled frames are reported second. -/
theorem test_readCounts_garbled :
    let s := fresh 5
    (after .readCounts (inCommand (s.setLine { s.line with garbled := 2 }))).port.buffer.take 5 =
      [0x00, 0x00, 0x00, 0x00, 0x02] := by decide
/-- R168: origin 7, SOUND; session 1300; sequence 1; (10, 20); source 3; RISE; value 0. -/
theorem test_readRecord_bytes : (reading 0).port.buffer =
    [0x00, 0x70, 0x05, 0x14, 0x00, 0x01, 0x00, 0x00, 0x00, 0x00, 0x0A, 0x00, 0x14, 0x03, 0x01, 0x00, 0x00] := by decide
/-- R139, R141: an empty released part is answered with EMPTY. -/
theorem test_readRecord_empty : (after .readRecord (inCommand (fresh 5))).port.buffer = [0x01] := by decide
theorem test_peekRecord_empty : (after .peekRecord (inCommand (fresh 5))).port.buffer = [0x01] := by decide
/-- R141: a peek pins nothing. -/
theorem test_peekRecord_unpinned :
    let s := fresh 5
    (after .peekRecord (inCommand (s.setJournal { s.journal with released := [entry 1 10 20] }))).journal.pinned = false := by
  decide

/-! ## Commands that act -/

/-- Section 5.12: with a loss pending INJECT is refused with FULL. -/
theorem test_inject_full :
    let s := activeAt 5 700 1600
    (after (.inject 0x0051) (inCommand (s.setCapture { s.capture with
      pendingLoss := some { first := { time := { round := 700, offset := 1230 }, quality := .sound }, count := 2 }
    }))).port.buffer = [0x04] := by decide
/-- Section 5.12: the second INJECT, with room, queues a HOST_MARK stamped (700, 2,400). -/
theorem test_inject_queued :
    (after (.inject 0x0051) (inCommand (activeAt 5 700 2400))).queue.records.map
      (fun r => (r.kind, r.time, r.source, r.value)) =
      [(.hostMark, { round := 700, offset := 2400 }, 8, 0x0051)] := by decide
/-- R165: bit 9 stands for no cause. -/
theorem test_setMask_arg :
    (after (.setMask 0x0200) (inCommand (fresh 5))).port.buffer = [0x03] ∧
      (after (.setMask 0x0200) (inCommand (fresh 5))).port.mask = 0x1FF := by decide
/-- R165: DUPLICATE, bit 8, left out of the mask. -/
theorem test_setMask_taken : (after (.setMask 0x00FF) (inCommand (fresh 5))).port.mask = 0x0FF := by decide
/-- R157: the counters become 0 and the attention set stands. -/
theorem test_clearCounts :
    let s := fresh 5
    let t := after .clearCounts (inCommand ((s.setLine { s.line with garbled := 2 }).setPort
      { s.port with attention := 0x004 }))
    t.line.garbled = 0 ∧ t.port.attention = 0x004 := by decide
/-- Section 10.8: L = 502 is refused and the profile stays; L = 500 is taken. -/
theorem test_writeProfile_arg :
    let t := after (.writeProfile 0x10 0x01F6 0x08 0x04 0x03 0x0014) (inCommand (fresh 12))
    t.port.buffer = [0x03] ∧ t.settings.profile = .default := by decide
theorem test_writeProfile_taken :
    (after (.writeProfile 0x10 0x01F4 0x08 0x04 0x03 0x0014) (inCommand (fresh 12))).settings.profile =
      { slotCount := 16, slotLength := 500, window := 8, correctionLimit := 4, exclusion := 3, guard := 20 } := by
  decide
/-- Section 10.8: a chatter limit of 1 is refused; with 0 input 6 becomes FALL, no, 8, 0. -/
theorem test_writeInput_arg : (after (.writeInput 6 2 8 1) (inCommand (fresh 12))).port.buffer = [0x03] := by decide
theorem test_writeInput_taken : (after (.writeInput 6 2 8 0) (inCommand (fresh 12))).settings.inputs[6] =
    { edge := .fall, invert := false, debounce := 8, chatter := 0 } := by decide
/-- Section 10.8: station number 12 conflicts with S = 8, and with 16 slots of 500 µs the timer starts at 22,000. -/
theorem test_start_conflict : (after .start (inCommand (fresh 12))).port.buffer = [0x05] := by decide
theorem test_start_timer :
    (after .start (inCommand (after (.writeProfile 0x10 0x01F4 0x08 0x04 0x03 0x0014)
      (inCommand (fresh 12))))).ctrl.listenTimer = some 22000 := by decide
/-- Section 2.11, first row. -/
theorem test_leave_active :
    let t := after .leave (inCommand (activeAt 5 300 3100))
    t.ctrl.station = .active ∧ t.ctrl.leavePending = true ∧ t.ctrl.drainCount = 0 := by decide
/-- R34: in LISTEN the station is DEPARTED at once. -/
theorem test_leave_listen : (after .leave (inCommand (listening 5))).ctrl.station = .departed := by decide
/-- R38: out of DEPARTED to LISTEN, without a session. -/
theorem test_rejoin :
    let t := after .rejoin (inCommand (after .leave (inCommand (listening 5))))
    t.ctrl.station = .listen ∧ t.ctrl.session = none ∧ t.ctrl.listenTimer = some 21000 := by decide

/-! ## The line -/

/-- R9: the receiver moves to PREAMBLE, and the preamble pattern 0x559B takes it to FRAME. -/
theorem test_burstBegins : (after .burstBegins (listening 5)).line.receiver = .preamble := by decide
theorem test_sofMarkReceived : (after (.sofMarkReceived 0x559B) (after .burstBegins (activeAt 2 800 5023))).line.receiver =
    .frame { round := 800, offset := 5023 } 0 := by decide
theorem test_sofMarkReceived_other_bits :
    (after (.sofMarkReceived 0x559A) (after .burstBegins (activeAt 2 800 5023))).line.receiver = .preamble := by decide
/-- R10: fewer than 24 bytes make the frame garbled. -/
theorem test_frameTaken_garbled :
    (after (.frameTaken [0x2D, 0x02] []) (hearing 800 2020 (activeAt 5 800 2100))).line.garbled = 1 := by decide
/-- Section 6.7: the BEACON of station 2 in round 800 carries (128, 41), and 40 and 41 leave the queue. -/
theorem test_frameTaken_acknowledges :
    let s := activeAt 5 800 2140
    let held := s.setQueue { s.queue with
      records := [queued 40 799 1120 true, queued 41 799 2400 true, queued 42 799 5900 false]
      nextSequence := 43, issuedThrough := some 41
      ackedThrough := ((Vector.replicate 16 none).set 2 (some 39)).set 7 (some 41) }
    let f := { beacon 2 800 with receipts := (Vector.replicate 16 none).set 5 (some { sessionByte := 128, through := 41 }) }
    (settleFrame [] (.valid f { round := 800, offset := 2020 } 0) held).queue.records.map (·.sequence) = [42] := by decide
/-- R2, R7: the preamble starts at slot start + 16.8 µs, 4 whole microseconds before the SOF mark is due. -/
theorem test_preambleStart :
    let t := after (.preambleStart [] []) (placeOrder { kind := .beacon, departing := false, round := 800 } (activeAt 5 800 5000))
    t.commonTime.offset = 5016 ∧
      t.line.transmitter = .sendingPreamble { kind := .beacon, departing := false, round := 800 } 4 := by decide

/-- Section 6.7: station 5 at its SOF mark in round 800. -/
def sending : State :=
  let s := activeAt 5 800 5020
  { s with
    line := { s.line with transmitter := .sendingPreamble { kind := .beacon, departing := false, round := 800 } 0 }
    queue := { s.queue with
      records := [queued 42 799 5900 false, queued 43 799 6300 false, queued 44 799 6150 false,
        queued 45 799 7050 false, queued 46 799 7500 false]
      nextSequence := 47, issuedThrough := some 41 } }

/-- Section 6.7: issued-through becomes 45 and the frame carries the watermark (799, 7,499). -/
theorem test_sofMarkSent_issued : (after .sofMarkSent sending).queue.issuedThrough = some 45 := by decide
theorem test_sofMarkSent_watermark : sending.beaconWatermark = { round := 799, offset := 7499 } := by decide
/-- R7: after the last CRC bit the transmitter is IDLE. -/
theorem test_frameSent : (after .frameSent (after .sofMarkSent sending)).line.transmitter = .idle := by decide

/-- A station whose own BEACON's echo is awaited, after this many failures in a row. -/
def awaitingEcho (failures : Nat) : State :=
  let s := activeAt 5 800 5300
  { s with line := { s.line with echo := some (.beacon, [0x55, 0x9B]) }, ctrl := { s.ctrl with echoRun := failures } }

/-- R30, R32: the third failure in a row reintegrates; a good echo ends the run. -/
theorem test_echoResult_third_failure :
    (after (.echoResult [0x55, 0x9A] true) (awaitingEcho 2)).ctrl.station = .listen := by decide
theorem test_echoResult_good : (after (.echoResult [0x55, 0x9B] true) (awaitingEcho 2)).ctrl.echoRun = 0 := by decide

/-! ## Boundaries, timers, samples -/

/-- Section 3.9, "A forward jump": -3 and -4 give c = +3, and common time is (421, 3). -/
theorem test_slotBoundary_forward_jump :
    let s := activeAt 5 420 7990
    (after (.slotBoundary []) (s.setTime { s.time with deviations := [(2, -3), (7, -4)] })).commonTime =
      { round := 421, offset := 3 } := by decide
/-- Section 2.11: at the round end with an empty queue the departing order is set. -/
theorem test_slotBoundary_departing_order :
    let s := activeAt 5 301 7990
    let t := after (.slotBoundary []) (s.setCtrl { s.ctrl with leavePending := true, drainCount := 1 })
    t.ctrl.drainCount = 2 ∧ t.ctrl.departingOrder = true := by decide
/-- Section 12.1: at local 18,000 station 2 is in COLDSTART at (0, 2,000). -/
theorem test_listenTimerExpiry_coldstart :
    let t := after .listenTimerExpiry (listening 2)
    t.ctrl.station = .coldstart ∧ t.commonTime = { round := 0, offset := 2000 } ∧ t.time.localCounter = 18000 := by decide

/-- Section 5.11: input 3 at its fourth high sample. -/
def fourthHigh : State :=
  let s := activeAt 5 600 4000
  let first : Stamp := { time := { round := 600, offset := 3710 }, quality := .sound }
  let low : Vector Tracker 8 := Vector.replicate 8 { Tracker.reset with state := .stable false }
  s.setCapture { s.capture with
    trackers := low.set 3 { Tracker.reset with state := .candidate false 3 first }
    untilSample := some 10 }

/-- Section 5.11: the change is accepted and a RISE of source 3 dated (600, 3,710) is queued. -/
theorem test_sampleEvent_accepts :
    (after (.sampleEvent 0x08) fourthHigh).queue.records.map (fun r => (r.kind, r.source, r.time)) =
      [(.rise, 3, { round := 600, offset := 3710 })] := by decide
/-- Section 5.11, third row: a low sample cancels the candidate. -/
theorem test_sampleEvent_cancels :
    (after (.sampleEvent 0x00) fourthHigh).capture.trackers[3].state = .stable false := by decide
/-- R85: at the end of a window without a change a chattering input stops, with CHATTER_OFF and its stable level. -/
theorem test_windowEnd_chatter_off :
    let s := activeAt 5 600 4000
    let low : Vector Tracker 8 := Vector.replicate 8 { Tracker.reset with state := .stable false }
    let t := after (.windowEnd 0x04) { s with
      settings := { s.settings with
        inputs := s.settings.inputs.set 2 { edge := .both, invert := false, debounce := 1, chatter := 4 } }
      capture := { s.capture with
        trackers := low.set 2 { state := .stable true, windowCount := 0, chattering := true }
        windowCounter := 9999 } }
    t.capture.windowCounter = 0 ∧ t.queue.records.map (fun r => (r.kind, r.source, r.value)) = [(.chatterOff, 2, 1)] := by
  decide
/-- Section 3.9, "A clamped correction": after 5 µs of local time the hold is over, and common time has not moved. -/
theorem test_holdEnd :
    let s := activeAt 5 411 0
    let t := after .holdEnd (s.setTime { s.time with holdCount := 5 })
    t.time.holdCount = 0 ∧ t.commonTime = { round := 411, offset := 0 } ∧ t.time.localCounter = 5 := by decide

/-! ## Witnesses: a state and operands for the hypotheses of each statement, clause by clause

Statements without hypotheses (StepTakesFrontCommand, EveryCommandGoesOn, GarbledExactlyOnItsGrounds, HostRecordFields'
record apart) need none. -/

/-- A station in ACTIVE whose host has begun a transaction. -/
def asked : State := inCommand (activeAt 5 800 2100)

/-- A station after LEAVE in LISTEN, in its next transaction. -/
def departed : State := inCommand (after .leave (inCommand (listening 5)))

/-- A station under reset. -/
def underReset : State := after .pinReset (fresh 5)

theorem witness_LocalTimePasses :
    (underReset.pending = [] ∧ underReset.pins.resetLow = true) ∧
    (let s := (listening 5).setCapture { (listening 5).capture with untilSample := some 0 }
     s.pending = [] ∧ s.pins.resetLow = false ∧ s.dueEvents ≠ []) ∧
    (let s := fresh 5
     s.pending = [] ∧ s.pins.resetLow = false ∧ s.dueEvents = [] ∧ 0 < s.settings.profile.cycle ∧
       s.time.holdCount = 0) ∧
    (let s := (activeAt 5 800 2100).setTime { (activeAt 5 800 2100).time with holdCount := 1 }
     s.pending = [] ∧ s.pins.resetLow = false ∧ s.dueEvents = [] ∧ 0 < s.time.holdCount) := by decide

theorem witness_ResetReturnsEveryBlock : underReset.pins.resetLow = true ∧ asked.pins.resetLow = false := by decide

/-- In RESPONSE with two bytes to send, this many of them sent and this many edges into the next. -/
def answeringTwo (sent edges : Nat) : State :=
  asked.setPort { asked.port with transaction := .response, buffer := [0x00, 0x81], bytesSent := sent, bitCount := edges }

theorem witness_SelectAndClockEdges :
    ((fresh 5).port.transaction = .idle ∧ (fresh 5).pins.resetLow = false) ∧
    (asked.port.transaction ≠ .idle ∧ asked.port.bitCount < 7 ∧ asked.port.transaction = .command) ∧
    (let s := answeringTwo 1 7
     s.port.transaction = .response ∧ s.port.bitCount = 7 ∧ s.port.bytesSent < s.port.buffer.length) ∧
    (let s := answeringTwo 2 0
     s.port.transaction = .response ∧ s.port.bitCount ≤ 7 ∧ s.port.buffer.length ≤ s.port.bytesSent) ∧
    (let s := asked.setPort { asked.port with transaction := .discard, bitCount := 7 }
     s.port.transaction = .discard ∧ s.port.bitCount = 7) := by decide

theorem witness_SelectReleaseEndsTransaction :
    ((reading 17).PinKept ∧ (reading 17).port.readingRecord = true ∧ 17 ≤ (reading 17).port.bytesSent) ∧
    ((reading 16).PinKept ∧ (reading 16).port.readingRecord = true ∧ (reading 16).port.bytesSent ≤ 16) ∧
    (asked.PinKept ∧ asked.port.readingRecord = false ∧ asked.port.transaction ≠ .idle) ∧
    ((fresh 5).PinKept ∧ (fresh 5).port.transaction = .idle) := by
  refine ⟨⟨⟨?_, ?_, ?_, ?_⟩, ?_, ?_⟩, ⟨⟨?_, ?_, ?_, ?_⟩, ?_, ?_⟩, ⟨⟨?_, ?_, ?_, ?_⟩, ?_, ?_⟩,
    ⟨⟨?_, ?_, ?_, ?_⟩, ?_⟩⟩ <;> decide

theorem witness_PortTimeoutEndsTransaction :
    (asked.PinKept ∧ asked.port.timer = some 0) ∧ ((fresh 5).PinKept ∧ (fresh 5).port.timer = none) := by
  refine ⟨⟨⟨?_, ?_, ?_, ?_⟩, ?_⟩, ⟨⟨?_, ?_, ?_, ?_⟩, ?_⟩⟩ <;> decide

theorem witness_ClockedCommandEqualsItsRow :
    (Instr.writeInput 6 2 8 0).wellFormed = true ∧ hostCommandBytes (.writeInput 6 2 8 0) = some [0x41, 6, 2, 8, 0] ∧
      (Instr.unknownCommandCode 0x53).wellFormed = true ∧ hostCommandBytes (.unknownCommandCode 0x53) = some [0x53] ∧
      asked.port.transaction = .command ∧ asked.port.received = [] ∧ asked.port.bitCount = 0 := by decide

theorem witness_UnknownCodesAndEventsNotDue :
    ((hostCommandBytes .start).isSome = true ∧ (fresh 5).port.transaction ≠ .command) ∧
    ((Instr.unknownCommandCode 0x53).wellFormed = true ∧ asked.port.transaction = .command) ∧
    (∀ o n, (fresh 5).line.transmitter ≠ .sendingPreamble o n) ∧ (fresh 5).line.echo = none ∧
    (fresh 5).ctrl.slotTimer = none ∧ (fresh 5).capture.untilSample = none ∧ (fresh 5).ctrl.station ≠ .listen := by
  refine ⟨by decide, by decide, ?_, by decide, by decide, by decide, by decide⟩
  intro o n
  exact nofun

theorem asked_numbered : asked.Numbered := ⟨by decide, by decide, by decide, by decide⟩

/-- A Journal with nothing in it has its form. -/
theorem ordered_of_reset (j : Journal) (h : j = Journal.reset) : j.Ordered := by
  subst h
  exact ⟨by decide, List.Pairwise.nil, nofun, nofun⟩

theorem asked_ordered : asked.journal.Ordered := ordered_of_reset _ (by decide)

theorem witness_StatusSnapshot : asked.port.transaction = .command ∧ asked.Numbered ∧ asked.journal.Ordered :=
  ⟨by decide, asked_numbered, asked_ordered⟩

theorem witness_TimeSnapshot :
    (asked.port.transaction = .command ∧ asked.settings.profile.inRange = true ∧ ∃ c, asked.time.lastCorrection = some c ∧
      c.count < 256) ∧
    (departed.port.transaction = .command ∧ departed.settings.profile.inRange = true ∧
      departed.time.lastCorrection = none) := by
  refine ⟨⟨by decide, by decide, _, rfl, by decide⟩, by decide⟩

theorem witness_AttentionReadAndRestored : asked.port.transaction = .command := by decide

theorem witness_PeerSnapshot :
    asked.port.transaction = .command ∧ 16 ≤ (16 : Byte).toNat ∧ (5 : Byte).toNat = asked.own.val ∧
      (15 : StationNo).val = (15 : Byte).toNat ∧ (15 : StationNo) ≠ asked.own := by decide

theorem witness_CountsRead : asked.port.transaction = .command ∧ asked.countersInRange := by
  refine ⟨by decide, ?_⟩
  unfold State.countersInRange
  decide

theorem witness_CountsCleared : asked.port.transaction = .command := by decide

/-- Two records released, in a transaction. -/
def askedWithRecords : State := asked.setJournal { asked.journal with released := [entry 1 10 20, entry 2 10 30] }

theorem witness_RecordCopiedAndPinned :
    (asked.port.transaction = .command ∧ asked.journal.released = []) ∧
    (askedWithRecords.port.transaction = .command ∧
      askedWithRecords.journal.released = entry 1 10 20 :: [entry 2 10 30]) := by decide

theorem witness_HostRecordFields : (entry 1 10 63999).time.offset < 65536 := by decide

theorem witness_InjectMakesMarkOrIsRefused :
    let producing (s : State) := ((s.ctrl.station = .listen ∧ s.time.quality ≠ .noTime) ∨ s.ctrl.station = .coldstart ∨
      s.ctrl.station = .integrate ∨ s.ctrl.station = .active) ∧ s.ctrl.leavePending = false
    let full (s : State) := s.queue.records.length ≥ 32 ∨ s.capture.pendingLoss ≠ none
    let crowded (n : Nat) := asked.setQueue { asked.queue with records := List.replicate n (queued 1 10 20 false) }
    asked.port.transaction = .command ∧ (producing (crowded 31) ∧ ¬ full (crowded 31)) ∧
      (producing (crowded 32) ∧ full (crowded 32)) ∧ (departed.port.transaction = .command ∧ ¬ producing departed) := by
  decide

theorem witness_MaskDecidesAttn :
    asked.port.transaction = .command ∧ 512 ≤ (512 : Word16).toNat ∧ (511 : Word16).toNat < 512 := by decide

theorem witness_ProfileWrittenInRange :
    (asked.port.transaction = .command ∧ asked.ctrl.station ≠ .config) ∧
    ((inCommand (fresh 5)).port.transaction = .command ∧ (inCommand (fresh 5)).ctrl.station = .config ∧
      (3 : Byte).toNat < 4 ∧ ¬ ((16 : Byte).toNat < 4 ∨ (16 : Byte).toNat > 16 ∨
      (4000 : Word16).toNat < 300 ∨ (4000 : Word16).toNat > 4000 ∨ (4000 : Word16).toNat % 50 ≠ 0 ∨
      (50 : Byte).toNat < 2 ∨ (50 : Byte).toNat > 50 ∨
      (20 : Byte).toNat < 1 ∨ (20 : Byte).toNat > 20 ∨ (20 : Byte).toNat > (50 : Byte).toNat ∨
      (8 : Byte).toNat < 1 ∨ (8 : Byte).toNat > 8 ∨ (1000 : Word16).toNat > 1000)) := by decide

theorem witness_InputSettingsWritten :
    (asked.port.transaction = .command ∧ asked.ctrl.station ≠ .config) ∧
    ((inCommand (fresh 5)).ctrl.station = .config ∧ (7 : Byte).toNat < 8 ∧ 7 < (8 : Byte).toNat ∧
      ¬ (7 < (7 : Byte).toNat ∨ (64 : Byte).toNat < 1 ∨ 64 < (64 : Byte).toNat ∨ (255 : Byte).toNat = 1 ∨
        (0x83 : Byte).toNat / 4 % 32 ≠ 0)) := by decide

/-- R6, R173: the CRC of the bytes 08 03 E8 0A 05 03 00 32, worked out from its polynomial outside the model. -/
theorem test_signature_default : Profile.default.signature = 0xC4B6 := by
  change crc16 [0x08, 0x03, 0xE8, 0x0A, 0x05, 0x03, 0x00, 0x32] = 0xC4B6
  simp [crc16, crcByte, crcBit]

theorem asked_signed : asked.settings.signature =
    if asked.ctrl.station = .config then none else some asked.settings.profile.signature := by
  rw [if_neg (by decide), show asked.settings.profile = .default by decide, test_signature_default]
  decide
theorem departed_signed : departed.settings.signature =
    if departed.ctrl.station = .config then none else some departed.settings.profile.signature := by
  rw [if_neg (by decide), show departed.settings.profile = .default by decide, test_signature_default]
  decide

theorem asked_consistent : asked.Consistent := by
  constructor
  case signature => exact asked_signed
  case order => nofun
  all_goals decide

theorem config_consistent (n : StationNo) (h : n = 7 ∨ n = 8) : (inCommand (fresh n)).Consistent := by
  rcases h with rfl | rfl <;> (constructor <;> first | decide | nofun)

theorem witness_StartLeavesConfig :
    ((inCommand (fresh 7)).port.transaction = .command ∧ (inCommand (fresh 7)).Consistent ∧
      (inCommand (fresh 7)).ctrl.station = .config ∧
      (inCommand (fresh 7)).own.val < (inCommand (fresh 7)).settings.profile.slotCount) ∧
    ((inCommand (fresh 8)).Consistent ∧
      (inCommand (fresh 8)).settings.profile.slotCount ≤ (inCommand (fresh 8)).own.val) ∧
    (asked.Consistent ∧ asked.ctrl.station ≠ .config) := by
  refine ⟨⟨by decide, config_consistent 7 (.inl rfl), by decide, by decide⟩, ⟨config_consistent 8 (.inr rfl), by decide⟩,
    asked_consistent, by decide⟩

theorem witness_LeaveDrainsOrDeparts :
    (asked.port.transaction = .command ∧ asked.ctrl.leavePending = false ∧ asked.ctrl.station = .active) ∧
    (let s := inCommand (listening 5)
     s.port.transaction = .command ∧ s.ctrl.leavePending = false ∧ s.ctrl.station = .listen) ∧
    (departed.port.transaction = .command ∧ departed.ctrl.station = .departed) := by decide

theorem departed_consistent : departed.Consistent := by
  constructor
  case signature => exact departed_signed
  case order => nofun
  all_goals decide

/-- The first slot start after an instant, at both ends of the first slot and of the round. -/
theorem witness_FirstSlotStartLater :
    Profile.default.inRange = true ∧ Profile.default.roundLength = 8000 ∧
    (∀ o ∈ [0, 999], FirstSlotStartLater .default { round := 3, offset := o } { round := 3, slot := 1 }) ∧
    (∀ o ∈ [7000, 7999], FirstSlotStartLater .default { round := 3, offset := o } { round := 4, slot := 0 }) := by
  unfold FirstSlotStartLater
  decide

theorem witness_RejoinReturnsToListen :
    (departed.port.transaction = .command ∧ departed.ctrl.station = .departed ∧ departed.Consistent) ∧
    (asked.port.transaction = .command ∧ asked.ctrl.station ≠ .departed) :=
  ⟨⟨by decide, by decide, departed_consistent⟩, by decide⟩

/-! ### Received frames -/

/-- A STARTUP of station 2 for round 0. -/
def startup2 : Frame :=
  { beacon 2 0 with kind := .startup, session := 0, view := 4, quality := .suspect }

set_option maxRecDepth 10000 in
/-- The bytes of three frames are read back (their CRC is evaluated by the kernel). -/
theorem readFrame_frames : readFrame 8000 (beacon 2 800).bytes = some (beacon 2 800) ∧
    readFrame 8000 (beacon 5 800).bytes = some (beacon 5 800) ∧
    readFrame 8000 startup2.bytes = some startup2 := by decide +kernel

/-- Station 5 in ACTIVE, at the end of a burst with a SOF mark stamped at this offset of round 800. -/
def hearingAt (offset : Nat) : State := hearing 800 offset (activeAt 5 800 6000)

theorem hears_beacon2 : (hearingAt 2030).HearsValid (beacon 2 800).bytes (beacon 2 800) { round := 800, offset := 2030 } 0 where
  receiver := rfl
  frame := readFrame_frames.1
  signature := by decide
  inSlot _ := by
    unfold OffSlotFrame
    decide

theorem witness_BurstTakenAsOneFrame :
    (let s := listening 5
     s.line.receiverOn = true ∧ s.line.receiver = .idle ∧ s.line.transmitter = .idle) ∧
    (fresh 5).line.receiverOn = false ∧ (after .burstBegins (listening 5)).line.receiver = .preamble ∧
    (hearingAt 2030).line.receiver ≠ .idle ∧
    -- off-slot: one microsecond beyond the slot window
    ((hearingAt 2031).settings.signature = some (beacon 2 800).signature ∧ (hearingAt 2031).holdsTime = true ∧
      OffSlotFrame (hearingAt 2031).settings.profile (beacon 2 800) { round := 800, offset := 2031 }) ∧
    -- valid: at the edge of the slot window
    (hearingAt 2030).HearsValid (beacon 2 800).bytes (beacon 2 800) { round := 800, offset := 2030 } 0 ∧
    -- foreign: another signature
    (let s := (hearingAt 2030).setSettings { (hearingAt 2030).settings with signature := some 0 }
     readFrame s.roundLength (beacon 2 800).bytes = some (beacon 2 800) ∧
       s.settings.signature ≠ some (beacon 2 800).signature) ∧
    -- garbled: 23 bytes
    readFrame 8000 (List.replicate 23 0x2D) = none := by
  refine ⟨by decide, by decide, by decide, by decide, ⟨by decide, by decide, ?_⟩, hears_beacon2,
    ⟨readFrame_frames.1, ?_⟩, by decide⟩
  · unfold OffSlotFrame
    decide
  · decide

theorem witness_EachBlockTakesTheEventOnce :
    (hearingAt 2030).HearsValid (beacon 2 800).bytes (beacon 2 800) { round := 800, offset := 2030 } 0 ∧
    [FrameAct.receipt, .outbound].Nodup ∧ [BoundaryAct.viewReport, .journal].Nodup ∧
    asked.ctrl.slotTimer = some { round := 800, slot := 3 } ∧
    -- a round end at which the view check fails, and one at which it does not
    (let s := asked.setMembers { asked.members with agree := 1, disagree := 2 }
     s.ctrl.station = .active ∧ s.members.entryBoundary ≠ some { round := 801, slot := 0 } ∧
       s.members.agree < s.members.disagree) ∧
    ¬ asked.members.agree < asked.members.disagree :=
  ⟨hears_beacon2, by decide⟩

theorem witness_DeviationFromNearestMark :
    (Profile.default.inRange = true ∧ (7 : StationNo).val < Profile.default.slotCount) ∧
    (let f := beacon 2 800
     let s := hearingAt 2030
     f.kind = .beacon ∧ f.departing = false ∧ f.quality = .sound ∧ f.station ≠ s.own ∧ s.ctrl.station = .active ∧
       s.members.peers[f.station].state = .member ∧ (∀ d ∈ s.time.deviations, d.1 ≠ f.station)) ∧
    (let s := (hearingAt 2030).setTime { (hearingAt 2030).time with deviations := [(2, 5)] }
     ∃ d ∈ s.time.deviations, d.1 = (beacon 2 800).station) ∧
    ¬ startup2.kind = .beacon := by decide

/-- Station 5 at the end of a burst with its own number in it: in ACTIVE, and in DEPARTED. -/
def hearingOwn : State := hearing 800 5020 (activeAt 5 800 5300)
def departedHearingOwn : State := hearing 800 5020 departed

theorem witness_OwnNumberLeadsToFault :
    (hearingOwn.HearsValid (beacon 5 800).bytes (beacon 5 800) { round := 800, offset := 5020 } 0 ∧
      (beacon 5 800).station = hearingOwn.own ∧ hearingOwn.ctrl.station = .active) ∧
    (departedHearingOwn.HearsValid (beacon 5 800).bytes (beacon 5 800) { round := 800, offset := 5020 } 0 ∧
      (beacon 5 800).station = departedHearingOwn.own ∧ departedHearingOwn.ctrl.station = .departed) := by
  refine ⟨⟨⟨by decide, readFrame_frames.2.1, by decide, ?_⟩, by decide⟩,
    ⟨⟨by decide, readFrame_frames.2.1, by decide, ?_⟩, by decide⟩⟩
  · intro _
    unfold OffSlotFrame
    decide
  · intro h
    exact absurd h (by decide)

theorem witness_FrameIntegratesStation :
    (let s := hearing 0 0 (listening 5)
     s.HearsValid startup2.bytes startup2 { round := 0, offset := 0 } 0 ∧ startup2.kind = .startup ∧
       s.ctrl.station = .listen ∧ startup2.station ≠ s.own ∧
       startup2.station.val < s.settings.profile.slotCount ∧ startup2.leavePending = false) ∧
    (let s := after .listenTimerExpiry (listening 5)
     s.ctrl.station = .coldstart ∧ startup2.station < s.own) ∧
    -- no base for integration: in INTEGRATE, from a higher number in COLDSTART, and in ACTIVE
    (let s := at_ 1 2100 (controllerTakeFrame startup2 0 (listening 5))
     s.ctrl.station = .integrate ∧ s.ctrl.integration = some (1, false) ∧ s.commonTime.round = 1 ∧
       (beacon 2 1).kind = .beacon ∧ (beacon 2 1).station ≠ s.own) ∧
    (let s := after .listenTimerExpiry (listening 5)
     s.ctrl.station = .coldstart ∧ s.own < (beacon 7 0).station) ∧
    (asked.ctrl.station = .active ∧ (beacon 2 800).station ≠ asked.own) := by
  refine ⟨⟨⟨by decide, readFrame_frames.2.2, by decide, ?_⟩, by decide⟩, by decide⟩
  intro h
  exact absurd h (by decide)

theorem witness_LineActivityRestartsTimer :
    ((after .burstBegins (listening 5)).line.receiver = .preamble ∧
      (after .burstBegins (listening 5)).ctrl.station = .listen ∧
      (after .burstBegins (listening 5)).ctrl.listenRestarts < 8) ∧
    (let s := (hearing 0 0 (listening 5)).setSettings { (listening 5).settings with signature := some 0 }
     s.ctrl.station = .listen ∧ readFrame s.roundLength startup2.bytes = some startup2 ∧
       s.settings.signature ≠ some startup2.signature) ∧
    (after .burstBegins (after .listenTimerExpiry (listening 5))).ctrl.station = .coldstart ∧
    (hearingAt 2030).ctrl.station ≠ .listen ∧ (hearingAt 2030).ctrl.station ≠ .coldstart ∧
    ((listening 5).ctrl.station = .listen ∧ (7 : StationNo) ≠ (listening 5).own ∧
      (let f := { beacon 7 800 with quality := .suspect }
       f.kind = .beacon ∧ f.quality = .suspect)) := by
  refine ⟨by decide, ⟨by decide, readFrame_frames.2.2, by decide⟩, by decide, by decide, by decide, by decide⟩

theorem witness_BeaconHeard :
    (let f := beacon 2 800
     f.kind = .beacon ∧ f.station ≠ asked.own ∧ asked.ctrl.station = .active ∧ f.departing = false) ∧
    (let f := { beacon 2 800 with departing := true }
     f.kind = .beacon ∧ f.departing = true) ∧
    (let s := controllerTakeFrame startup2 0 (listening 5)
     s.ctrl.station = .integrate ∧ s.ctrl.integration.map (·.1) = some 1) ∧
    ¬ startup2.kind = .beacon := by decide

theorem witness_AcknowledgementTaken :
    let f := { beacon 2 800 with receipts := (Vector.replicate 16 none).set 5 (some { sessionByte := 128, through := 41 }) }
    f.kind = .beacon ∧ f.station ≠ asked.own ∧
      f.receipts[asked.own] = some { sessionByte := 128, through := 41 } ∧ asked.ctrl.session = some 640 ∧
      (640 : Session).toNat % 256 = (128 : Byte).toNat := by decide

/-- A station in ACTIVE that holds this received-through for station 7's session 1,300 (section 7.10). -/
def holdingThrough (r : Option Sequence) : State :=
  asked.setReceipts { asked.receipts with
    entries := asked.receipts.entries.set 7
      { knownSession := some 1300, receivedThrough := r, issuedThrough := r, watermark := some { round := 900, offset := 6950 } } }

theorem witness_ReceiptEntryOpened :
    -- taken in ACTIVE, and as the integrating frame in LISTEN; not taken otherwise
    ((beacon 7 901).kind = .beacon ∧ (beacon 7 901).station ≠ (holdingThrough none).own ∧
      (holdingThrough none).ctrl.station = .active ∧ (listening 5).ctrl.station = .listen ∧ startup2.kind ≠ .beacon) ∧
    (holdingThrough (some 118)).receipts.entries[(7 : StationNo)].receivedThrough = some 118 ∧
      (beacon 7 901).session = 1300 ∧ (beacon 7 901).issuedThrough = none ∧
    -- stale: one before, and 16,384 after; not stale: equal, and 16,383 after
    16383 < ((117 : Sequence) - 118).toNat ∧ 16383 < ((118 + 16384 : Sequence) - 118).toNat ∧
      ((118 : Sequence) - 118).toNat ≤ 16383 ∧ ((118 + 16383 : Sequence) - 118).toNat ≤ 16383 := by decide

/-- An announcement of station 7. -/
def announcement (q : Sequence) : WireRecord :=
  { sequence := q, time := { round := 900, offset := 100 }, source := 3, kind := .rise, quality := .sound, value := 0 }

/-- A BEACON of station 7 that announces its latest record. -/
def announcing (issued : Sequence) : Frame :=
  { beacon 7 904 with
    issuedThrough := some issued, announcements := [announcement issued]
    watermark := some { round := 904, offset := 7020 } }

/-- The receipt entry, held through 118, after those announcements. -/
def afterAnnouncing (issued : Sequence) : ReceiptEntry :=
  (takeAnnouncements (announcing issued) (announcing issued).announcements
    (receiptOpening (announcing issued) (holdingThrough (some 118)))).receipts.entries[(7 : StationNo)]

theorem witness_EmptyBeaconSettlesEntry :
    (beacon 7 904).announcements = [] ∧
      (beacon 7 904).watermark = none ∧ { beacon 7 904 with watermark := some { round := 904, offset := 7020 } }.watermark =
        some { round := 904, offset := 7020 } ∧
      (CommonTime.earlier { round := 900, offset := 6950 } { round := 904, offset := 7020 }) = true ∧
    -- with announcements: received-through meets issued-through, and falls short of it at a gap
    ((announcing 119).announcements ≠ [] ∧ (afterAnnouncing 119).receivedThrough = (announcing 119).issuedThrough ∧
      (afterAnnouncing 119).watermark = some { round := 900, offset := 6950 } ∧
      (announcing 119).watermark = some { round := 904, offset := 7020 }) ∧
    (afterAnnouncing 120).receivedThrough ≠ (announcing 120).issuedThrough := by
  refine ⟨by decide, by decide, by decide, by decide, ⟨by decide, by decide, by decide, by decide⟩, by decide⟩

theorem witness_AnnouncementRun :
    let rest := [announcement 120, announcement 121, announcement 122]
    rest.length ≤ 3 ∧
    (∀ k (h : k < rest.length), rest[k].sequence = (announcement 119).sequence + BitVec.ofNat 15 (k + 1)) ∧
    (holdingThrough none).receipts.entries[(7 : StationNo)].receivedThrough = none ∧
    -- next, the last duplicate that is no gap, and the first gap
    ((118 : Sequence) + 1 - (announcement 119).sequence).toNat = 0 ∧
    ((119 + 16384 : Sequence) + 1 - (announcement 119).sequence).toNat = 16385 ∧
    ((119 + 16385 : Sequence) + 1 - (announcement 119).sequence).toNat = 16386 ∧
    (beacon 7 901).view.getLsbD 5 = true ∧ { beacon 7 951 with view := 0x00A0 ^^^ 0x0020 }.view.getLsbD 5 = false := by
  decide

theorem witness_AnnouncementRun_state : (holdingThrough (some 118)).countersInRange := by
  unfold State.countersInRange
  decide

/-! ### The own frame -/

/-- A BEACON ordered for round 800. -/
def order800 : TransmitOrder := { kind := .beacon, departing := false, round := 800 }

theorem witness_PreambleAndFrameSent :
    (let s := placeOrder order800 (activeAt 5 800 5000)
     s.line.transmitter = .ordered order800 ∧ s.line.receiver = .idle ∧ s.aheadOfPreamble 800 = some 16 ∧
       0 < s.settings.profile.cycle) ∧
    -- a jump has passed the preamble start
    (let s := placeOrder order800 (activeAt 5 800 5017)
     s.line.transmitter = .ordered order800 ∧ s.aheadOfPreamble 800 = none) ∧
    -- a burst is under way
    (placeOrder order800 (hearingAt 2030)).line.receiver ≠ .idle ∧
    (∃ n, (after .sofMarkSent sending).line.transmitter = .sendingBody order800 n) := by
  refine ⟨by decide, by decide, by decide, 201, by decide⟩

/-- Station 5 at the SOF mark of another order. -/
def sendingFor (o : TransmitOrder) : State :=
  sending.setLine { sending.line with transmitter := .sendingPreamble o 0 }

theorem witness_SofMarkTakesContent :
    sending.line.transmitter = .sendingPreamble order800 0 ∧ order800.kind = .beacon ∧
    (let o : TransmitOrder := { order800 with kind := .startup }
     (sendingFor o).line.transmitter = .sendingPreamble o 0 ∧ o.kind = .startup) ∧
    (let o : TransmitOrder := { order800 with departing := true }
     (sendingFor o).line.transmitter = .sendingPreamble o 0 ∧ o.departing = true ∧ (sendingFor o).ctrl.station = .active) := by
  decide

/-- The offset of a watermark lies in the round where every stamp it comes before does. -/
theorem witness_WatermarkCoversUnannounced_offset :
    0 < fourthHigh.roundLength ∧ 3710 < fourthHigh.roundLength ∧ sending.beaconWatermark.offset < sending.roundLength := by
  decide

theorem witness_WatermarkCoversUnannounced (t : CommonTime)
    (h : (∃ (i : InputNo) (level : Bool) (count : Nat) (first : Stamp),
        fourthHigh.capture.trackers[i].state = .candidate level count first ∧ fourthHigh.settings.inputs[i].edge ≠ .off ∧
          first.time = t) ∨
      (∃ l, fourthHigh.capture.pendingLoss = some l ∧ l.first.time = t) ∨
      (∃ r ∈ fourthHigh.queue.records.drop 4, r.announced = false ∧ r.time = t)) :
    t ≠ { round := 0, offset := 0 } := by
  rcases h with ⟨i, level, count, first, h, -, rfl⟩ | ⟨l, h, -⟩ | ⟨r, h, -⟩
  · have hall : ∀ i : InputNo, fourthHigh.capture.trackers[i].state = .stable false ∨
        fourthHigh.capture.trackers[i].state =
          .candidate false 3 { time := { round := 600, offset := 3710 }, quality := .sound } := by decide
    rcases hall i with h' | h' <;> rw [h'] at h <;> cases h
    decide
  · exact absurd h (by rw [show fourthHigh.capture.pendingLoss = none by decide]; simp)
  · rw [show fourthHigh.queue.records = [] by decide] at h
    simp at h

theorem witness_EchoReport :
    ((awaitingEcho 2).line.echo = some (.beacon, [0x55, 0x9B]) ∧ (awaitingEcho 2).ctrl.station = .active ∧
      2 ≤ (awaitingEcho 2).ctrl.echoRun ∧ (awaitingEcho 1).ctrl.echoRun < 2) ∧
    (let s := after .listenTimerExpiry (listening 5)
     let t := s.setLine { s.line with echo := some (.startup, [0x55, 0x9B]) }
     t.line.echo = some (.startup, [0x55, 0x9B]) ∧ t.ctrl.station = .coldstart) ∧
    ¬ (([0x55, 0x9B] : List Byte) = [0x55, 0x9A]) := by decide

/-! ### Boundaries and round ends -/

theorem witness_BoundaryInsideRound :
    (let s := activeAt 5 800 2100
     s.ctrl.slotTimer = some { round := 800, slot := 3 } ∧ s.ctrl.station = .active ∧
       s.ahead (SlotStart.count s.settings.profile { round := 800, slot := 3 }) s.settings.profile.slotLength = some 900 ∧
       0 < s.settings.profile.cycle ∧ s.releaseCandidate = none) ∧
    (let s := activeAt 5 800 4100
     s.ctrl.slotTimer = some { round := 800, slot := 5 } ∧ (5 : StationNo) = s.own ∧ s.line.transmitter = .idle) ∧
    -- in COLDSTART at another slot than the own, and at the own one of R0
    (let s := after .listenTimerExpiry (listening 5)
     s.ctrl.station = .coldstart ∧ s.ctrl.slotTimer = some { round := 0, slot := 6 } ∧ (6 : Nat) ≠ s.own.val ∧
       s.ctrl.contention = some 0 ∧ (0 : Round) + 1 ≠ 0) ∧
    (controllerTakeFrame { startup2 with round := 3 } 0 (listening 5)).ctrl.station = .integrate ∧
    (controllerTakeFrame { startup2 with round := 3 } 0 (listening 5)).ctrl.slotTimer = some { round := 3, slot := 3 } := by
  decide

/-- Section 8.5: station 2 at (1001, 0) with the accepted watermarks of stations 5 and 7. -/
def releasing (w5 w7 : Option CommonTime) : State :=
  let s := activeAt 2 1001 0
  { s with
    members := { s.members with peers := ((Vector.replicate 16 .reset).set 5 member).set 7 member }
    receipts := { s.receipts with
      entries := ((Vector.replicate 16 .reset).set 5 { ReceiptEntry.reset with watermark := w5 }).set 7
        { ReceiptEntry.reset with watermark := w7 } } }

/-- Section 8.5, first row: the candidate is (1000, 4,970). -/
theorem test_release_candidate :
    (releasing (some { round := 1000, offset := 5020 }) (some { round := 1000, offset := 6880 })).releaseCandidate =
      some { round := 1000, offset := 4970 } := by decide

/-- Section 8.5: at the round end (1001, 0) the Journal, taking the boundary in ACTIVE, releases through the candidate. -/
theorem test_journalBoundary_roundEnd :
    let s := releasing (some { round := 1000, offset := 5020 }) (some { round := 1000, offset := 6880 })
    let t := journalBoundary (s.setJournal { s.journal with unreleased := [entry 1 1000 4970, entry 2 1000 4971] })
    s.ctrl.station = .active ∧ t.journal.released = [entry 1 1000 4970] ∧ t.journal.unreleased = [entry 2 1000 4971] ∧
      t.journal.horizon = some { round := 1000, offset := 4970 } := by decide

theorem witness_ReleaseCandidateIsBounded :
    (let s := releasing (some { round := 1000, offset := 5020 }) none
     (7 : StationNo) ≠ s.own ∧ s.members.peers[(7 : StationNo)].state = .member ∧
       s.receipts.entries[(7 : StationNo)].watermark = none) ∧
    (let s := releasing (some { round := 1000, offset := 49 }) (some { round := 1000, offset := 6880 })
     (∀ p : StationNo, p ≠ s.own ∧ (s.members.peers[p].state = .member ∨ s.members.peers[p].state = .missing) →
       s.receipts.entries[p].watermark ≠ none) ∧ s.settings.profile.guard = 50) := by decide

theorem witness_EntryAtBoundary :
    (let s := at_ 1 5000 (after .listenTimerExpiry (listening 5))
     s.ctrl.leavePending = false ∧ (∃ o, s.line.transmitter = .ordered o) ∧ s.ctrl.station = .coldstart ∧
       (5 : StationNo) = s.own ∧ s.ctrl.contention = some 0) ∧
    (∀ heard : Bool,
      let s := controllerTakeFrame startup2 0 (listening 5)
      let t := s.setCtrl { s.ctrl with integration := some (1, heard) }
      t.ctrl.leavePending = false ∧ t.line.transmitter = .idle ∧ t.ctrl.station = .integrate ∧
        t.ctrl.integration = some (1, heard)) ∧
    -- with a leave pending, after 6 and 7 round ends
    (∀ heard : Bool, ∀ n ∈ [6, 7],
      let s := controllerTakeFrame startup2 0 (listening 5)
      let t := s.setCtrl { s.ctrl with integration := some (1, heard), leavePending := true, drainCount := n }
      t.ctrl.leavePending = true ∧ t.ctrl.station = .integrate ∧ t.ctrl.integration = some (1, heard)) ∧
    (let s := after .listenTimerExpiry (listening 0)
     let t := s.setCtrl { s.ctrl with leavePending := true, drainCount := 7 }
     t.ctrl.station = .coldstart ∧ t.own.val = 0 ∧ t.ctrl.contention = some 0 ∧ t.ctrl.leavePending = true) := by
  refine ⟨⟨by decide, ⟨{ kind := .startup, departing := false, round := 0 }, by decide⟩, by decide⟩, by decide⟩

/-- Station 5 during a leave drain, after this many round ends. -/
def draining (n : Nat) : State := asked.setCtrl { asked.ctrl with leavePending := true, drainCount := n }

theorem witness_RoundEndAtController :
    let b : SlotStart := { round := 801, slot := 0 }
    (b.slot = 0 ∧ asked.own.val ≠ 0 ∧ asked.ctrl.leavePending = false ∧ asked.ctrl.station = .active) ∧
    ((draining 7).ctrl.leavePending = true ∧ (draining 7).ctrl.station = .active ∧ (draining 8).ctrl.drainCount = 8) ∧
    -- the own slot is slot 0, in ACTIVE and in COLDSTART before the contention ends
    (let s := activeAt 0 800 7990
     s.own.val = 0 ∧ s.ctrl.station = .active ∧ s.line.transmitter = .idle) ∧
    (let s := after .listenTimerExpiry (listening 0)
     s.ctrl.station = .coldstart ∧ s.own.val = 0 ∧ s.ctrl.contention = some 0 ∧ (0 : Round) + 1 ≠ b.round) ∧
    (let s := (listening 5).setCtrl { (listening 5).ctrl with leavePending := true, drainCount := 7 }
     s.ctrl.station = .listen ∧ s.ctrl.leavePending = true ∧ 7 ≤ s.ctrl.drainCount) ∧
    (let s := (listening 5).setCtrl { (listening 5).ctrl with leavePending := true, drainCount := 6 }
     s.ctrl.drainCount < 7) ∧
    (asked.ctrl.clampedRun < 2 ∧ 2 ≤ (asked.setCtrl { asked.ctrl with clampedRun := 2 }).ctrl.clampedRun) ∧
    asked.members.entryBoundary ≠ some b := by decide

/-- Section 4.8: a missing peer at the round end that excludes it, and one missed for the second time of three. -/
theorem witness_TableEvaluated :
    let missing (n : Nat) : PeerEntry := { member with state := .missing, missCount := n }
    let s := asked.setMembers { asked.members with
      peers := ((((asked.members.peers.set 0 (missing 2)).set 1 (missing 1)).set 3 { member with state := .candidate, heard := true }).set 4
        { member with state := .candidate }).set 6 { PeerEntry.reset with heard := true } }
    s.ctrl.station = .active ∧ s.members.entryBoundary ≠ some { round := 801, slot := 0 } ∧ s.settings.profile.exclusion = 3 ∧
      (s.members.peers[(0 : StationNo)].state = .missing ∧ s.members.peers[(0 : StationNo)].missCount + 1 = 3) ∧
      (s.members.peers[(1 : StationNo)].state = .missing ∧ s.members.peers[(1 : StationNo)].missCount + 1 ≠ 3) ∧
      (s.members.peers[(2 : StationNo)].state = .member ∧ s.members.peers[(2 : StationNo)].heard = false) ∧
      (s.members.peers[(3 : StationNo)].state = .candidate ∧ s.members.peers[(3 : StationNo)].heard = true) ∧
      (s.members.peers[(4 : StationNo)].state = .candidate ∧ s.members.peers[(4 : StationNo)].heard = false) ∧
      (s.members.peers[(6 : StationNo)].state = .absent ∧ s.members.peers[(6 : StationNo)].heard = true) := by decide

theorem witness_RoundEndCorrects :
    (0 < asked.settings.profile.cycle ∧ asked.ctrl.slotTimer ≠ none ∧ asked.ctrl.station ≠ .integrate) ∧
    (0 < (listening 5).settings.profile.cycle ∧ (listening 5).ctrl.slotTimer = none) ∧
    (let s := controllerTakeFrame startup2 0 (listening 5)
     s.ctrl.slotTimer ≠ none ∧ s.ctrl.station = .integrate ∧ s.ctrl.integration = some (1, false)) ∧
    midpoint [] = none ∧ midpoint [9, 8, 10] = some 9 ∧ midpoint [-3, -4] = some (-3) ∧ midpoint [2, -3] = some 0 := by decide

/-- R46: the list is emptied also at the round end that starts the integration round. -/
theorem test_roundEnd_empties_deviations :
    let s := controllerTakeFrame startup2 0 (listening 5)
    (timeRoundEnd { round := 1, slot := 0 } (s.setTime { s.time with deviations := [(2, 3)] })).1.time.deviations = [] := by
  decide

/-- Section 3.9, "A large cluster": the midpoint is 1. -/
theorem test_midpoint_large_cluster : midpoint [4, 1, -2, 6, 0, 3, -5, 2] = some 1 := by decide

theorem witness_MidpointToleratesWrongDeviations :
    -- section 3.9, "A large cluster", in order
    (([-5, -2, 0, 1, 2, 3, 4, 6] : List Int).Perm [4, 1, -2, 6, 0, 3, -5, 2] ∧
      ([-5, -2, 0, 1, 2, 3, 4, 6] : List Int).Pairwise (· ≤ ·) ∧ ([-5, -2, 0, 1, 2, 3, 4, 6] : List Int)[2]? = some 0 ∧
      ([-5, -2, 0, 1, 2, 3, 4, 6] : List Int)[8 - 1 - 2]? = some 3) ∧
    ([9, 8, 900, 8, 9, -800, 9] : List Int) ≠ [] ∧
      (([9, 8, 900, 8, 9, -800, 9] : List Int).filter fun d => decide (d < 8 ∨ 9 < d)).length = 2 := by decide

theorem witness_RoundEndRemovesRecords :
    (sending.ctrl.station = .active ∧ (2 : StationNo) ≠ sending.own ∧ sending.members.peers[(2 : StationNo)].state = .member) ∧
    (listening 5).ctrl.station ≠ .active := by decide

theorem listening_consistent : (listening 2).Consistent := by
  constructor
  case signature =>
    rw [if_neg (by decide), show (listening 2).settings.profile = .default by decide, test_signature_default]
    decide
  case order => nofun
  all_goals decide

theorem witness_ListenExpiryColdstarts :
    ((listening 2).Consistent ∧ (listening 2).ctrl.station = .listen ∧ (listening 2).ctrl.listenTimer = some 18000 ∧
      (listening 2).line.transmitter = .idle) ∧ (asked.Consistent ∧ asked.ctrl.station ≠ .listen) :=
  ⟨⟨listening_consistent, by decide⟩, asked_consistent, by decide⟩

/-! ### Samples and the Journal -/

theorem witness_SampleMovesTrackers :
    fourthHigh.capture.untilSample = some 10 ∧ fourthHigh.capture.windowCounter + 1 < 10000 ∧
    (let s := fourthHigh.setCapture { fourthHigh.capture with windowCounter := 9999 }
     s.capture.untilSample = some 10 ∧ 10000 ≤ s.capture.windowCounter + 1) := by decide

theorem witness_TrackerAcceptsAfterDebounce : 1 ≤ 64 ∧ 1 ≤ 63 ∧ 63 < 64 := by decide

theorem witness_SampleRecordsQueuedOrLost :
    (let first : Stamp := { time := { round := 600, offset := 3710 }, quality := .sound }
     TrackerState.sample 4 first true (.candidate false 3 first) = (.stable true, some (first, true)) ∧
       fourthHigh.producing = true ∧ first.quality ≠ .noTime) ∧
    (fourthHigh.queue.records.length < 32 ∧ fourthHigh.capture.pendingLoss = none) ∧
    (let s := fourthHigh.setQueue { fourthHigh.queue with records := List.replicate 32 (queued 1 10 20 false) }
     32 ≤ s.queue.records.length) := by decide

/-- A Journal with this many records released and this many more unreleased, all beyond the horizon. -/
def journalOf (released unreleased : Nat) (pinned : Bool) : Journal :=
  { Journal.reset with
    released := List.replicate released (entry 1 10 20)
    unreleased := List.replicate unreleased (entry 2 10 30)
    horizon := some { round := 10, offset := 20 }
    pinned := pinned }

theorem journalOf_ordered (a b : Nat) (pinned : Bool) (h : a + b ≤ 256) (hp : pinned = true → a ≠ 0) :
    (journalOf a b pinned).Ordered where
  held := by simpa [journalOf, Journal.held] using h
  sorted := by
    apply List.pairwise_replicate.2
    right
    unfold JournalRecord.keyNotAfter
    decide
  beyond := by
    rintro h hh r hr
    cases hh
    rw [List.eq_of_mem_replicate hr]
    decide
  pin hpin := by
    simp only [journalOf, ne_eq, List.replicate_eq_nil_iff]
    exact hp hpin

theorem journalOf_held (a b : Nat) (pinned : Bool) : (journalOf a b pinned).held = a + b := by
  simp [journalOf, Journal.held]

theorem witness_JournalInsertion :
    (journalOf 1 254 false).Ordered ∧ (journalOf 1 254 false).held = 255 ∧
    -- full, with a released record to discard; the pinned head spared; and with none to discard
    ((journalOf 1 255 false).Ordered ∧ (journalOf 1 255 false).held = 256 ∧
      (journalOf 1 255 false).released = [entry 1 10 20]) ∧
    ((journalOf 2 254 true).Ordered ∧ (journalOf 2 254 true).released = entry 1 10 20 :: [entry 1 10 20]) ∧
    ((journalOf 1 255 true).Ordered ∧ (journalOf 1 255 true).released.length = 1) ∧
    ((journalOf 0 256 false).Ordered ∧ (journalOf 0 256 false).held = 256 ∧ (journalOf 0 256 false).released = []) ∧
    -- LATE at the horizon, in key order behind it, and a record whose identity is held
    (CommonTime.earlier { round := 10, offset := 20 } (entry 3 10 20).time = false ∧
      CommonTime.earlier { round := 10, offset := 20 } (entry 3 10 40).time = true) ∧
    (entry 3 10 40).keyEarlier (entry 2 10 30) = false ∧ (entry 3 10 25).keyEarlier (entry 2 10 30) = true ∧
    (entry 2 10 30).session ≠ none := by
  refine ⟨journalOf_ordered _ _ _ (by decide) nofun, journalOf_held _ _ _,
    ⟨journalOf_ordered _ _ _ (by decide) nofun, journalOf_held _ _ _, rfl⟩,
    ⟨journalOf_ordered _ _ _ (by decide) (by decide), rfl⟩, ⟨journalOf_ordered _ _ _ (by decide) (by decide), rfl⟩,
    ⟨journalOf_ordered _ _ _ (by decide) nofun, journalOf_held _ _ _, rfl⟩, by decide, by decide, by decide, by decide⟩

/-- R134, R135: in a full Journal with nothing released an earlier record displaces the latest one; it is placed, here
behind the horizon, and all of the earliest timestamp is released with FORCED set. -/
theorem test_discardByKey_displaces :
    let late : JournalRecord := { entry 9 10 5 with origin := 2 }
    let j : Journal := { Journal.reset with
      unreleased := [entry 1 10 20, entry 2 10 20, entry 3 10 30], horizon := some { round := 10, offset := 10 } }
    (j.discardByKey late).released.map (fun r => (r.sequence, r.late, r.forced)) =
        [(9, true, false), (1, false, true), (2, false, true)] ∧
      (j.discardByKey late).unreleased = [] ∧ (j.discardByKey late).horizon = some { round := 10, offset := 20 } ∧
      ((j.discardByKey late).overflow, (j.discardByKey late).late, (j.discardByKey late).forced) = (1, 1, 2) := by decide

theorem witness_AwaitingRecordsTakeSession :
    let own : JournalRecord := { entry 0 10 20 with origin := 5, session := none, awaiting := true }
    let rival : JournalRecord := { entry 0 10 10 with origin := 5, session := some 1 }
    let Apart (j : Journal) :=
      (j.released ++ j.unreleased).Pairwise (fun a b => ¬ a.identityShared b) ∧
      (∀ r ∈ j.released ++ j.unreleased, r.awaiting = true → r.origin = 5) ∧
      (j.released ++ j.unreleased).Pairwise
        (fun a b => a.awaiting = true → b.awaiting = true → a.sequence ≠ b.sequence)
    -- an awaiting record that clashes is dropped, unpinned and behind a pinned rival; a pinned one drops its rival
    (let j := { Journal.reset with released := [own], unreleased := [rival, { own with sequence := 1 }] }
     Apart j ∧ j.pinned = false ∧ (j.takeSession 5 1).released = [] ∧ (j.takeSession 5 1).unreleased.length = 2) ∧
    (let j := { Journal.reset with released := [rival], unreleased := [own], pinned := true }
     Apart j ∧ j.released = rival :: [] ∧ (j.takeSession 5 1).unreleased = []) ∧
    (let j := { Journal.reset with released := [own], unreleased := [rival], pinned := true }
     Apart j ∧ j.released = own :: [] ∧ (j.takeSession 5 1).unreleased = []) := by
  unfold JournalRecord.identityShared
  decide

/-! ### What every step keeps -/

/-- Station 5 in ACTIVE with SELN_ASSERTED in front of its queue. -/
def stepping : State := (activeAt 5 800 2100).setPending [.selnAsserted]

theorem witness_EveryStepKeepsRecords :
    stepping.journal.Ordered ∧ stepping.Numbered ∧ stepping.Identified ∧ ∃ t, step stepping = .next t :=
  ⟨ordered_of_reset _ (by decide), ⟨by decide, by decide, by decide, by decide⟩,
    ⟨by unfold JournalRecord.identityShared; decide, by decide, by decide, by decide, by decide, by decide⟩, _, rfl⟩

theorem witness_EveryStepKeepsStation :
    stepping.Consistent ∧ stepping.CausesHeld ∧ ∃ t, step stepping = .next t := by
  refine ⟨?_, ⟨by decide, by decide⟩, _, rfl⟩
  constructor
  case signature =>
    rw [if_neg (by decide), show stepping.settings.profile = .default by decide, test_signature_default]
    decide
  case order => nofun
  all_goals decide

theorem witness_EveryStepKeepsBlocks :
    stepping.TableKept ∧ stepping.OwnUnused ∧ stepping.countersInRange ∧ stepping.PinKept ∧
      ∃ t, step stepping = .next t := by
  refine ⟨⟨fun h => absurd (by decide) h, by decide, by decide, by decide, by decide⟩,
    ⟨fun h => absurd h (by decide), by decide, by decide, by decide, by decide, by decide⟩, ?_,
    ⟨by decide, by decide, by decide, by decide⟩, _, rfl⟩
  unfold State.countersInRange
  decide

theorem witness_SettingsFrozenAfterStart :
    asked.ctrl.station ≠ .config ∧ Instr.leave ≠ .powerOnReset ∧ Instr.leave ≠ .pinReset ∧ asked.pins.resetLow = false ∧
      ∃ t, exec .leave asked = .next t := by
  refine ⟨by decide, by decide, by decide, by decide, _, rfl⟩

theorem witness_FrameReadsAsSent :
    let f := { beacon 7 901 with
      issuedThrough := some 32767, watermark := some { round := 901, offset := 6400 }
      announcements := [announcement 119, announcement 120, announcement 121, announcement 122] }
    8000 ≤ 64000 ∧ f.Sound 8000 := by
  refine ⟨by decide, by decide, nofun, ?_, ?_⟩
  · unfold WireRecord.sound
    decide
  · intro t h
    cases h
    decide

end Sys2Proof.Tests
end

section
/-! SUPPORT. The round-end evaluation of the Membership Table (R63 to R65): the move of one peer entry row by row, the
table it makes, the causes it raises, and the statement about it. -/

namespace Sys2Proof.Machine

/-! ## The table of R64, row by row -/

namespace PeerEntry

variable {e : PeerEntry} {x : Nat}

theorem evaluate_absent_heard (st : e.state = .absent) (hd : e.heard = true) :
    e.evaluate x = { e with state := .candidate, heardCount := 1, heard := false } := by simp [evaluate, st, hd]

theorem evaluate_absent_unheard (st : e.state = .absent) (hd : e.heard = false) : e.evaluate x = e := by
  simp [evaluate, st, hd]

theorem evaluate_candidate_heard (st : e.state = .candidate) (hd : e.heard = true) :
    e.evaluate x = { e with state := .member, heardCount := 2, heard := false } := by simp [evaluate, st, hd]

theorem evaluate_candidate_unheard (st : e.state = .candidate) (hd : e.heard = false) :
    e.evaluate x = { e with state := .absent, heardCount := 0 } := by simp [evaluate, st, hd]

theorem evaluate_member_heard (st : e.state = .member) (hd : e.heard = true) :
    e.evaluate x = { e with missCount := 0, heard := false } := by simp [evaluate, st, hd]

theorem evaluate_member_excluded (st : e.state = .member) (hd : e.heard = false) (hx : x = 1) :
    e.evaluate x = { e with state := .absent, heardCount := 0 } := by simp [evaluate, st, hd, hx]

theorem evaluate_member_missed (st : e.state = .member) (hd : e.heard = false) (hx : x ≠ 1) :
    e.evaluate x = { e with state := .missing, missCount := 1 } := by simp [evaluate, st, hd, hx]

theorem evaluate_missing_heard (st : e.state = .missing) (hd : e.heard = true) :
    e.evaluate x = { e with state := .member, missCount := 0, heard := false } := by simp [evaluate, st, hd]

theorem evaluate_missing_excluded (st : e.state = .missing) (hd : e.heard = false) (hx : e.missCount + 1 = x) :
    e.evaluate x = { e with state := .absent, heardCount := 0, missCount := 0 } := by simp [evaluate, st, hd, hx]

theorem evaluate_missing_missed (st : e.state = .missing) (hd : e.heard = false) (hx : e.missCount + 1 ≠ x) :
    e.evaluate x = { e with missCount := e.missCount + 1 } := by simp [evaluate, st, hd, hx]

theorem inView_iff : e.inView = true ↔ e.state = .member ∨ e.state = .missing := by simp [inView]

theorem joins_iff : e.joins x = true ↔ e.state = .candidate ∧ (e.evaluate x).state = .member := by simp [joins]

theorem lost_iff :
    e.lost x = true ↔ (e.state = .member ∨ e.state = .missing) ∧ (e.evaluate x).state = .absent := by
  simp [lost, inView_iff]

end PeerEntry

/-! ## The round end -/

theorem Membership.evaluate_peer (x : Nat) (m : Membership) (n : StationNo) :
    (m.evaluate x).peers[n] = m.peers[n].evaluate x := by simp [Membership.evaluate, Membership.mapPeers]

@[simp] theorem State.setMembers_raised (s : State) (m : Membership) (c : Cause) :
    (s.setMembers m).raised c = s.raised c := rfl

theorem setMembers_samePort (s : State) (m : Membership) : SamePort s (s.setMembers m) := .same rfl

theorem State.evaluatesAt_iff (s : State) (b : SlotStart) :
    s.evaluatesAt b = true ↔ s.ctrl.station = .active ∧ s.members.entryBoundary ≠ some b := by
  simp [State.evaluatesAt]

theorem membershipRoundEnd_idle {b : SlotStart} {s : State}
    (h : s.ctrl.station ≠ .active ∨ s.members.entryBoundary = some b) : membershipRoundEnd b s = s :=
  if_neg fun k =>
    have ⟨active, notEntry⟩ := (s.evaluatesAt_iff b).mp k
    h.elim (· active) notEntry

section Evaluated

variable {b : SlotStart} {s : State} (h : s.evaluatesAt b = true)
include h

theorem membershipRoundEnd_members :
    (membershipRoundEnd b s).members = s.members.evaluate s.settings.profile.exclusion := by
  simp [membershipRoundEnd, h]

theorem membershipRoundEnd_peer (n : StationNo) :
    (membershipRoundEnd b s).members.peers[n] = s.members.peers[n].evaluate s.settings.profile.exclusion := by
  rw [membershipRoundEnd_members h, Membership.evaluate_peer]

theorem membershipRoundEnd_port : SamePort s (membershipRoundEnd b s) := by
  rw [membershipRoundEnd, if_pos h]
  exact ((setMembers_samePort s _).trans (raiseIf_port _ _ _)).trans (raiseIf_port _ _ _)

theorem membershipRoundEnd_raised (c : Cause) :
    (membershipRoundEnd b s).raised c = true ↔ s.raised c = true ∨
      (c = .memberJoin ∧ ∃ n : StationNo, s.members.peers[n].joins s.settings.profile.exclusion = true) ∨
      (c = .memberLoss ∧ ∃ n : StationNo, s.members.peers[n].lost s.settings.profile.exclusion = true) := by
  rw [membershipRoundEnd, if_pos h, raiseIf_raised, raiseIf_raised, any_allStations, any_allStations,
    State.setMembers_raised, or_assoc, and_comm (b := c = .memberJoin), and_comm (b := c = .memberLoss)]

/-- R65: MEMBER_JOIN and MEMBER_LOSS by the states before and after the evaluation. -/
theorem membershipRoundEnd_causes : CausesAdded s (membershipRoundEnd b s) fun c =>
    (c = .memberJoin ∧ ∃ n : StationNo, s.members.peers[n].state = .candidate ∧
      (membershipRoundEnd b s).members.peers[n].state = .member) ∨
    (c = .memberLoss ∧ ∃ n : StationNo,
      (s.members.peers[n].state = .member ∨ s.members.peers[n].state = .missing) ∧
      (membershipRoundEnd b s).members.peers[n].state = .absent) where
  set c := by
    simp only [membershipRoundEnd_raised h, PeerEntry.joins_iff, PeerEntry.lost_iff, membershipRoundEnd_peer h]
  port := membershipRoundEnd_port h

end Evaluated

theorem membershipRoundEnd_frame (b : SlotStart) (s : State) : membershipRoundEnd b s =
    { s with members := (membershipRoundEnd b s).members, port := (membershipRoundEnd b s).port } := by
  apply State.ext_blocks <;> simp

open PeerEntry in
/-- Settles O45: the table moves each entry on its own, so every row is a row of `PeerEntry.evaluate`. -/
theorem tableEvaluated : Obligations.TableEvaluated := by
  intro b s
  refine ⟨membershipRoundEnd_idle, fun active notEntry => ⟨_, rfl, ?_⟩⟩
  have h : s.evaluatesAt b = true := (s.evaluatesAt_iff b).mpr ⟨active, notEntry⟩
  refine ⟨fun n => ?_, ?counts, membershipRoundEnd_causes h, membershipRoundEnd_frame b s⟩
  case counts => simp [membershipRoundEnd_members h, Membership.evaluate, Membership.mapPeers]
  rw [membershipRoundEnd_peer h]
  exact ⟨evaluate_absent_heard, evaluate_absent_unheard, evaluate_candidate_heard, evaluate_candidate_unheard,
    evaluate_member_heard, evaluate_member_excluded, evaluate_member_missed, evaluate_missing_heard,
    evaluate_missing_excluded, evaluate_missing_missed⟩

end Sys2Proof.Machine
end

section
/-! SUPPORT. The acknowledgement the Outbound Queue takes from a BEACON (R100 to R102): what a frame may write in the
queue, the four conditions as `acceptsAck` tests them, and the statement about every state. -/

namespace Sys2Proof.Machine

/-! ## The order of sequence numbers -/

/-- The model's two cases, equality and following, are one bound on the wrapping difference. -/
theorem followsOrEqualsSeq_iff (a b : Sequence) : followsOrEqualsSeq a b = true ↔ (a - b).toNat ≤ 16383 := by
  have hzero : a = b ↔ (a - b).toNat = 0 := by bv_omega
  simp only [followsOrEqualsSeq, followsSeq, Bool.or_eq_true, Bool.and_eq_true, decide_eq_true_eq, hzero]
  omega

/-- The low 8 bits of a session, as R101 compares them. -/
theorem eq_setWidth_byte_iff (b : Byte) (x : Session) : b = x.setWidth 8 ↔ b.toNat = x.toNat % 256 := by
  rw [← BitVec.toNat_inj, BitVec.toNat_setWidth]

/-! ## The sender's session and acked-through -/

namespace OutboundQueue

variable {q : OutboundQueue} {session : Option Session} {own : StationNo} {f : Frame}

theorem sessionChanged_eq_false_iff :
    q.sessionChanged f = false ↔
      q.peerSessions[f.station] = none ∨ q.peerSessions[f.station] = some f.session := by
  cases h : q.peerSessions[f.station] <;> simp [sessionChanged, h]

/-- The sender's acked-through as R100 leaves it. -/
theorem notePeerSession_acked :
    (q.notePeerSession f).ackedThrough[f.station] =
      if q.peerSessions[f.station] = none ∨ q.peerSessions[f.station] = some f.session then
        q.ackedThrough[f.station] else none := by
  simp only [← sessionChanged_eq_false_iff]
  cases h : q.sessionChanged f <;> simp [notePeerSession, h]

/-- R100 writes in the sender's entries alone, so writing the sender's acked-through afterwards hides what it left. -/
theorem notePeerSession_acked_set (acked : Option Sequence) :
    (q.notePeerSession f).ackedThrough.set f.station acked = q.ackedThrough.set f.station acked := by
  cases h : q.sessionChanged f <;> simp [notePeerSession, h]

/-! ## The conditions of R101 and what they decide -/

theorem acceptsAck_iff {p : StationNo} {r : Receipt} :
    q.acceptsAck session p r = true ↔
      (∃ x, session = some x ∧ r.sessionByte.toNat = x.toNat % 256) ∧
      (∃ issued, q.issuedThrough = some issued ∧ (issued - r.through).toNat ≤ 16383) ∧
      (∀ acked, q.ackedThrough[p] = some acked → (r.through - acked).toNat ≤ 16383) := by
  simp only [acceptsAck, Bool.and_eq_true, and_assoc]
  refine and_congr ?session (and_congr ?issued ?acked)
  case session => cases session <;> simp [eq_setWidth_byte_iff]
  case issued => cases q.issuedThrough <;> simp [followsOrEqualsSeq_iff]
  case acked => cases q.ackedThrough[p] <;> simp [followsOrEqualsSeq_iff]

theorem takeAck_of_accepted {r : Receipt} (hr : f.receipts[own] = some r)
    (h : q.acceptsAck session f.station r = true) :
    q.takeAck session own f = { q with ackedThrough := q.ackedThrough.set f.station (some r.through) } := by
  simp only [takeAck, hr, if_pos h]

theorem takeAck_of_refused
    (h : ∀ r, f.receipts[own] = some r → ¬ q.acceptsAck session f.station r = true) :
    q.takeAck session own f = q := by
  cases hr : f.receipts[own] with
  | none => simp only [takeAck, hr]
  | some r => simp only [takeAck, hr, if_neg (h r hr)]

/-- R101 writes in the sender's acked-through alone. -/
theorem takeAck_writes :
    q.takeAck session own f = { q with
      ackedThrough := q.ackedThrough.set f.station (q.takeAck session own f).ackedThrough[f.station] } := by
  by_cases h : ∃ r, f.receipts[own] = some r ∧ q.acceptsAck session f.station r = true
  · obtain ⟨r, hr, haccepted⟩ := h
    simp [takeAck_of_accepted hr haccepted]
  · have hrefused : q.takeAck session own f = q := takeAck_of_refused fun r hr ha => h ⟨r, hr, ha⟩
    simp [hrefused]

end OutboundQueue

/-! ## The frame at the Outbound Queue -/

/-- The state after R100 and R101, before any removal. -/
def State.ackTaken (s : State) (f : Frame) : State :=
  s.setQueue ((s.queue.notePeerSession f).takeAck s.ctrl.session s.own f)

theorem State.ackTaken_writes (s : State) (f : Frame) : s.ackTaken f = { s with queue := { s.queue with
    peerSessions := s.queue.peerSessions.set f.station (some f.session)
    ackedThrough := s.queue.ackedThrough.set f.station (s.ackTaken f).queue.ackedThrough[f.station] } } :=
  (congrArg s.setQueue OutboundQueue.takeAck_writes).trans (by rw [OutboundQueue.notePeerSession_acked_set]; rfl)

theorem State.ackTaken_viewPeers (s : State) (f : Frame) : (s.ackTaken f).viewPeers = s.viewPeers := rfl

theorem removeAcknowledged_eq (s : State) :
    removeAcknowledged s = if s.viewPeers = [] then s else removeWhile s.ackedByView s := by
  simp [removeAcknowledged]

/-- In CONFIG, DEPARTED and FAULT no acknowledgement is taken, from whatever frame (R106, R107). -/
theorem outboundTakeFrame_deaf {f : Frame} {s : State}
    (h : s.ctrl.station = .config ∨ s.ctrl.station = .departed ∨ s.ctrl.station = .faulted) :
    outboundTakeFrame f s = s := by
  rcases h with h | h | h <;> simp [outboundTakeFrame, h]

section BeaconOfAnother

variable {f : Frame} {s : State} (hbeacon : f.kind = .beacon) (hother : f.station ≠ s.own)
include hbeacon hother

theorem outboundTakeFrame_collecting
    (h : s.ctrl.station = .listen ∨ s.ctrl.station = .coldstart ∨ s.ctrl.station = .integrate) :
    outboundTakeFrame f s = s.ackTaken f := by
  rcases h with h | h | h <;> simp [outboundTakeFrame, State.ackTaken, hbeacon, hother, h]

theorem outboundTakeFrame_active (h : s.ctrl.station = .active) :
    outboundTakeFrame f s = removeAcknowledged (s.ackTaken f) := by
  simp [outboundTakeFrame, State.ackTaken, hbeacon, hother, h]

end BeaconOfAnother

/-- Settles O33: the witness is the sender's acked-through in the queue after R100 and R101, which the conditions of
section 6.4 decide; the removal in ACTIVE reads the view, which that act leaves as it is. -/
theorem acknowledgementTaken : Obligations.AcknowledgementTaken := by
  intro f s hbeacon hother kept accepts
  have haccepts (r : Receipt) :
      (s.queue.notePeerSession f).acceptsAck s.ctrl.session f.station r = true ↔ accepts r := by
    rw [OutboundQueue.acceptsAck_iff, OutboundQueue.notePeerSession_acked]
    rfl
  refine ⟨(s.ackTaken f).queue.ackedThrough[f.station], fun r hr hr' => ?accepted, fun refused => ?refused, ?_⟩
  case accepted =>
    rw [State.ackTaken, OutboundQueue.takeAck_of_accepted hr ((haccepts r).mpr hr')]
    simp
  case refused =>
    have hnone := OutboundQueue.takeAck_of_refused fun r hr => (haccepts r).not.mpr (refused r hr)
    rw [State.ackTaken, hnone]
    exact OutboundQueue.notePeerSession_acked
  intro noted
  have hnoted : s.ackTaken f = noted := s.ackTaken_writes f
  refine ⟨fun h => ?collecting, fun h => ?active, outboundTakeFrame_deaf⟩
  case collecting => rw [outboundTakeFrame_collecting hbeacon hother h, hnoted]
  case active =>
    rw [outboundTakeFrame_active hbeacon hother h, removeAcknowledged_eq, State.ackTaken_viewPeers, hnoted]

end Sys2Proof.Machine
end

section
/-! SUPPORT. The first two steps of processing a BEACON (R111 to R113): the frames the Receipt Unit takes, the session
step, the staleness check, and that an entry so opened is left as it is when it is opened again. -/

namespace Sys2Proof.Machine

/-! ## The two steps on one entry -/

namespace ReceiptEntry

variable {e : ReceiptEntry} {session : Session} {issued : Option Sequence}

theorem cleared_isStale : e.cleared.isStale issued = false := rfl

theorem sessionStep_same (h : e.knownSession = none ∨ e.knownSession = some session) :
    e.sessionStep session = { e with knownSession := some session } := by
  rcases h with h | h
  · simp only [sessionStep, h]
  · simp only [sessionStep, h, if_true]
    rw [← h]

theorem sessionStep_changed (h : ¬ (e.knownSession = none ∨ e.knownSession = some session)) :
    e.sessionStep session = { e.cleared with knownSession := some session } := by
  obtain ⟨unknown, differs⟩ := not_or.mp h
  obtain ⟨known, hknown⟩ := Option.ne_none_iff_exists'.mp unknown
  have hne : known ≠ session := fun heq => differs (heq ▸ hknown)
  simp only [sessionStep, hknown, if_neg hne]

theorem sessionStep_knownSession : (e.sessionStep session).knownSession = some session := by
  by_cases h : e.knownSession = none ∨ e.knownSession = some session
  · rw [sessionStep_same h]
  · rw [sessionStep_changed h]

theorem sessionStep_of_known (h : e.knownSession = some session) : e.sessionStep session = e := by
  rw [sessionStep_same (.inr h), ← h]

/-- R113: a received-through that the frame's issued-through neither follows nor equals; a frame that has issued
nothing makes every received-through stale. -/
theorem isStale_iff :
    e.isStale issued = true ↔ e.receivedThrough ≠ none ∧
      ∀ r i, e.receivedThrough = some r → issued = some i → 16383 < (i - r).toNat := by
  cases hr : e.receivedThrough with
  | none => simp [isStale, hr]
  | some r =>
    cases issued with
    | none => simp [isStale, hr]
    | some i => simp [isStale, hr, ← Bool.not_eq_true, followsOrEqualsSeq_iff]

end ReceiptEntry

/-! ## The opening of the sender's entry -/

theorem setReceipt_entry (s : State) (o : StationNo) (e : ReceiptEntry) :
    (s.setReceipt o e).receipts.entries[o] = e := by simp [State.setReceipt]

theorem setReceipt_self (s : State) (o : StationNo) : s.setReceipt o s.receipts.entries[o] = s := by
  simp [State.setReceipt, State.setReceipts]

theorem countGaps_entries (n : Nat) (s : State) : (countGaps n s).receipts.entries = s.receipts.entries := rfl

section Opening

variable {f : Frame} {s : State}

theorem receiptOpening_stale (h : (s.receipts.entries[f.station].sessionStep f.session).isStale f.issuedThrough = true) :
    receiptOpening f s =
      countGaps 1 (s.setReceipt f.station (s.receipts.entries[f.station].sessionStep f.session).cleared) := if_pos h

theorem receiptOpening_sound
    (h : ¬ (s.receipts.entries[f.station].sessionStep f.session).isStale f.issuedThrough = true) :
    receiptOpening f s = s.setReceipt f.station (s.receipts.entries[f.station].sessionStep f.session) := if_neg h

theorem receiptOpening_entry :
    (receiptOpening f s).receipts.entries[f.station].knownSession = some f.session ∧
      (receiptOpening f s).receipts.entries[f.station].isStale f.issuedThrough = false := by
  by_cases h : (s.receipts.entries[f.station].sessionStep f.session).isStale f.issuedThrough = true
  · rw [receiptOpening_stale h, countGaps_entries, setReceipt_entry]
    exact ⟨ReceiptEntry.sessionStep_knownSession, ReceiptEntry.cleared_isStale⟩
  · rw [receiptOpening_sound h, setReceipt_entry]
    exact ⟨ReceiptEntry.sessionStep_knownSession, Bool.eq_false_of_not_eq_true h⟩

theorem receiptOpening_of_opened (known : s.receipts.entries[f.station].knownSession = some f.session)
    (sound : s.receipts.entries[f.station].isStale f.issuedThrough = false) : receiptOpening f s = s := by
  have hstep := ReceiptEntry.sessionStep_of_known known
  rw [receiptOpening_sound (by rw [hstep, sound]; exact Bool.false_ne_true), hstep, setReceipt_self]

theorem receiptOpening_idem : receiptOpening f (receiptOpening f s) = receiptOpening f s :=
  have ⟨known, sound⟩ := receiptOpening_entry
  receiptOpening_of_opened known sound

theorem processBeacon_receiptOpening : processBeacon f (receiptOpening f s) = processBeacon f s := by
  simp only [processBeacon, receiptOpening_idem]

end Opening

theorem receiptTakeFrame_eq (integrating : Bool) (f : Frame) (s : State) : receiptTakeFrame integrating f s =
    if f.kind = .beacon ∧ f.station ≠ s.own ∧
      (s.ctrl.station = .active ∨ s.ctrl.station = .integrate ∨ integrating = true) then processBeacon f s else s := by
  simp [receiptTakeFrame, and_assoc, or_assoc]

/-- Settles O34: `known` is the entry after the session step, and the rest of the processing cannot tell the opened
state from the one before, an entry once opened being left as it is by a second opening. -/
theorem receiptEntryOpened : Obligations.ReceiptEntryOpened := by
  refine ⟨fun integrating f s => ?frames, ?entry⟩
  case frames =>
    rw [receiptTakeFrame_eq]
    exact ⟨fun h => if_pos h, fun h => if_neg h⟩
  intro f s e cleared known stale
  have hknown : e.sessionStep f.session = known := by
    by_cases h : e.knownSession = none ∨ e.knownSession = some f.session
    · exact (ReceiptEntry.sessionStep_same h).trans (if_pos h).symm
    · exact (ReceiptEntry.sessionStep_changed h).trans (if_neg h).symm
  have hcleared : known.cleared = cleared := by
    have hsession : known.knownSession = some f.session := hknown ▸ ReceiptEntry.sessionStep_knownSession
    simp only [ReceiptEntry.cleared, hsession, cleared]
  have hstale : (e.sessionStep f.session).isStale f.issuedThrough = true ↔ stale := hknown ▸ ReceiptEntry.isStale_iff
  refine ⟨fun h => ?stale, fun h => ?sound, processBeacon_receiptOpening.symm⟩
  case stale =>
    rw [receiptOpening_stale (hstale.mpr h), hknown, hcleared]
    rfl
  case sound =>
    rw [receiptOpening_sound (hstale.not.mpr h), hknown]
    rfl

end Sys2Proof.Machine
end

section
/-! SUPPORT. The Host Port's commands, its attention set and the end of its transactions: the state a taken command
leaves, the numbers that stand in a buffer of byte fields, the causes as bits of the set, and the release of SELn. -/

namespace Sys2Proof.Machine

/-! ## The taking of a command -/

/-- In COMMAND a command leaves its own state with its status and response in the transfer buffer (R147, R150). -/
theorem takeCommand_answering {command : State → Answer × State} {s t : State} {answer : Answer}
    (h : s.port.transaction = .command) (hcommand : command s = (answer, t)) (bytes : List Byte) :
    takeCommand bytes command s = t.answering bytes (answer.status.code :: answer.response) := by
  rw [takeCommand, if_pos h, answerWith, hcommand]
  rfl

/-! ## Fields of a buffer -/

@[simp] theorem bytesOf_length (n x : Nat) : (bytesOf n x).length = n := by
  induction n with
  | zero => rfl
  | succ n ih => simp [bytesOf, ih]

@[simp] theorem field_cons_succ (b : Byte) (bytes : List Byte) (k n : Nat) :
    field (b :: bytes) (k + 1) n = field bytes k n := by
  induction n generalizing k with
  | zero => rfl
  | succ n ih => simp [field, ih]

@[simp] theorem field_cons_one (b : Byte) (bytes : List Byte) : field (b :: bytes) 0 1 = b.toNat := by
  simp [field]

/-- A field past a first part of the buffer is one of the rest. -/
theorem field_append_of_le {front : List Byte} {k : Nat} (h : front.length ≤ k) (rest : List Byte) (n : Nat) :
    field (front ++ rest) k n = field rest (k - front.length) n := by
  induction front generalizing k with
  | nil => rfl
  | cons b front ih =>
    obtain ⟨k, rfl⟩ : ∃ j, k = j + 1 := Nat.exists_eq_add_one.mpr (Nat.lt_of_lt_of_le (Nat.succ_pos _) h)
    rw [List.cons_append, field_cons_succ, ih (Nat.le_of_succ_le_succ h), List.length_cons, Nat.add_sub_add_right]

/-- A field of n bytes holds the low n bytes of the number written there (section 9.6). -/
theorem field_bytesOf (n x : Nat) (rest : List Byte) : field (bytesOf n x ++ rest) 0 n = x % 2 ^ (8 * n) := by
  induction n with
  | zero => simp [field, Nat.mod_one]
  | succ n ih =>
    have hsplit : x % 2 ^ (8 * (n + 1)) = x % 2 ^ (8 * n) + 2 ^ (8 * n) * (x / 2 ^ (8 * n) % 2 ^ 8) := by
      rw [Nat.mul_succ, pow_add, Nat.mod_mul]
    have hhead : field (bytesOf (n + 1) x ++ rest) 0 (n + 1) =
        x / 2 ^ (8 * n) % 2 ^ 8 * 2 ^ (8 * n) + field (bytesOf n x ++ rest) 0 n := by
      simp [field, bytesOf]
    rw [hhead, ih, hsplit, Nat.add_comm, Nat.mul_comm (_ % 2 ^ 8)]

/-- A number of n bytes written into n bytes is the field there. -/
theorem field_bytesOf_of_lt {n x : Nat} (h : x < 2 ^ (8 * n)) (rest : List Byte) :
    field (bytesOf n x ++ rest) 0 n = x := by rw [field_bytesOf, Nat.mod_eq_of_lt h]

/-! ## Host records -/

theorem Quality.code_lt (q : Quality) : q.code < 4 := by cases q <;> decide

theorem RecordKind.code_lt (k : RecordKind) : k.code < 256 := by cases k <;> decide

namespace JournalRecord

/-- The parts of a host record in the order of R168. -/
theorem hostBytes_eq (r : JournalRecord) : r.hostBytes =
    BitVec.ofNat 8 (r.origin.val * 16 + r.quality.code * 4 + (if r.late then 2 else 0) + (if r.forced then 1 else 0)) ::
      (bytesOf 2 (r.session.getD 0).toNat ++
        (bytesOf 2 (r.sequence.toNat + (if r.session.isNone then 32768 else 0)) ++
          (bytesOf 5 r.time.round.toNat ++ (bytesOf 2 r.time.offset ++
            (r.source :: BitVec.ofNat 8 r.kind.code :: (bytesOf 2 r.value.toNat ++ [])))))) := by
  simp [hostBytes]

/-- Origin, quality and the two flags fit into one byte. -/
theorem flags_lt (r : JournalRecord) : r.origin.val * 16 + r.quality.code * 4 + (if r.late then 2 else 0) +
    (if r.forced then 1 else 0) < 256 := by
  have horigin := r.origin.isLt
  have hquality := r.quality.code_lt
  split <;> split <;> omega

theorem sequenceField_lt (r : JournalRecord) :
    r.sequence.toNat + (if r.session.isNone then 32768 else 0) < 65536 := by
  have hsequence := r.sequence.isLt
  split <;> omega

end JournalRecord

/-- Settles O17: each part of the record is a number that fits into the bytes R168 gives it. -/
theorem hostRecordFields : Obligations.HostRecordFields := by
  intro r offset
  have hsession : (r.session.map (·.toNat)).getD 0 = (r.session.getD 0).toNat := by cases r.session <;> rfl
  have hnone : (if r.session = none then 32768 else 0) = if r.session.isNone then 32768 else 0 := by
    simp only [Option.isNone_iff_eq_none]
  rw [hsession, hnone, r.hostBytes_eq]
  refine ⟨by simp, ?flags, ?session, ?sequence, ?round, ?offset, ?source, ?kind, ?value, rfl, rfl⟩
  case flags => rw [field_cons_one, BitVec.toNat_ofNat, Nat.mod_eq_of_lt r.flags_lt]
  all_goals simp only [field_cons_succ, field_append_of_le, bytesOf_length, Nat.reduceLeDiff, Nat.reduceSub,
    field_cons_one]
  case session => exact field_bytesOf_of_lt (r.session.getD 0).isLt _
  case sequence => exact field_bytesOf_of_lt r.sequenceField_lt _
  case round => exact field_bytesOf_of_lt r.time.round.isLt _
  case offset => exact field_bytesOf_of_lt offset _
  case kind => exact Nat.mod_eq_of_lt r.kind.code_lt
  case value => exact field_bytesOf_of_lt r.value.isLt _

/-! ## Counters -/

theorem exec_clearCounts {s : State} (h : s.port.transaction = .command) :
    exec .clearCounts s = .next ((clearCounters s).answering [0x31] [0x00]) :=
  congrArg Host.Outcome.next (takeCommand_answering (command := clearCountsCommand) h rfl _)

/-- Settles O15: the state to be answered from is the one with the counters cleared. -/
theorem countsCleared : Obligations.CountsCleared := by
  intro s h
  refine ⟨clearCounters s, exec_clearCounts h, rfl, ?_⟩
  simp [State.counters, clearCounters]

/-! ## The attention set and its mask -/

theorem Cause.bit_lt (c : Cause) : c.bit < 9 := by cases c <;> decide

/-- Each bit of the attention set stands for a cause (R169). -/
theorem Cause.exists_bit {i : Nat} (h : i < 9) : ∃ c : Cause, c.bit = i :=
  match i, h with
  | 0, _ => ⟨.stateChange, rfl⟩
  | 1, _ => ⟨.memberJoin, rfl⟩
  | 2, _ => ⟨.memberLoss, rfl⟩
  | 3, _ => ⟨.captureLoss, rfl⟩
  | 4, _ => ⟨.journalLoss, rfl⟩
  | 5, _ => ⟨.lateRecord, rfl⟩
  | 6, _ => ⟨.portTimeout, rfl⟩
  | 7, _ => ⟨.timeSuspect, rfl⟩
  | 8, _ => ⟨.duplicate, rfl⟩

/-- Two sets of causes meet exactly where they share one. -/
theorem and_ne_zero_iff_cause (a b : BitVec 9) :
    a &&& b ≠ 0 ↔ ∃ c : Cause, a.getLsbD c.bit = true ∧ b.getLsbD c.bit = true := by
  constructor
  · intro h
    by_contra hnone
    refine h (BitVec.eq_of_getLsbD_eq fun i hi => ?_)
    obtain ⟨c, rfl⟩ := Cause.exists_bit hi
    simpa using fun ha => not_and.mp (not_exists.mp hnone c) ha
  · rintro ⟨c, ha, hb⟩ hzero
    have hbit := congrArg (BitVec.getLsbD · c.bit) hzero
    simp [ha, hb] at hbit

theorem State.raised_iff (s : State) (c : Cause) :
    s.raised c = true ↔ s.port.attention.toNat / 2 ^ c.bit % 2 = 1 := by
  rw [State.raised, BitVec.getLsbD, Nat.testBit_eq_decide_div_mod_eq, decide_eq_true_iff]

theorem State.timeSuspect_iff (s : State) : s.timeSuspect = true ↔
    s.ctrl.station ≠ .config ∧ (s.time.quality = .suspect ∨ s.time.quality = .noTime) := by
  simp [State.timeSuspect]

theorem State.duplicated_iff (s : State) : s.duplicated = true ↔ s.ctrl.station = .faulted := by
  simp [State.duplicated]

/-- s with the attention set emptied and each persistent cause that holds added again (R164). -/
def State.attentionRestored (s : State) : State := holdPersistent (s.setPort { s.port with attention := 0 })

theorem State.attentionRestored_raised (s : State) (c : Cause) : s.attentionRestored.raised c = true ↔
    (c = .timeSuspect ∧ s.ctrl.station ≠ .config ∧ (s.time.quality = .suspect ∨ s.time.quality = .noTime)) ∨
    (c = .duplicate ∧ s.ctrl.station = .faulted) := by
  have hempty : (s.setPort { s.port with attention := 0 }).raised c = false := BitVec.getLsbD_zero
  rw [State.attentionRestored, holdPersistent_raised, hempty, State.timeSuspect_iff, State.duplicated_iff]
  simp [and_comm]

theorem State.attentionRestored_frame (s : State) : s.attentionRestored =
    { s with port := { s.port with attention := s.attentionRestored.port.attention } } := by
  apply State.ext_blocks
  case port => exact holdPersistent_port (s.setPort { s.port with attention := 0 })
  all_goals simp [State.attentionRestored]

theorem exec_readAttention {s : State} (h : s.port.transaction = .command) : exec .readAttention s =
    .next (s.attentionRestored.answering [0x03] (0x00 :: bytesOf 2 s.port.attention.toNat)) :=
  congrArg Host.Outcome.next (takeCommand_answering (command := readAttentionCommand) h rfl _)

/-- A state that differs from s by the attention set alone still does when a command is answered. -/
theorem State.answering_frame {s t : State} {a : BitVec 9} (h : t = { s with port := { s.port with attention := a } })
    (received buffer : List Byte) : t.answering received buffer = { s.answering received buffer with
      port := { (s.answering received buffer).port with attention := a } } := by
  rw [h]
  rfl

/-- Settles O12: the buffer holds the set as it stood, and the set restored is what the persistent causes make of the
empty set. -/
theorem attentionReadAndRestored : Obligations.AttentionReadAndRestored := by
  intro s h
  have hset : s.port.attention.toNat < 512 := s.port.attention.isLt
  have hfield : field (0x00 :: bytesOf 2 s.port.attention.toNat) 1 2 = s.port.attention.toNat := by
    rw [field_cons_succ, ← List.append_nil (bytesOf _ _)]
    exact field_bytesOf_of_lt (by omega) []
  refine ⟨s.attentionRestored.answering [0x03] (0x00 :: bytesOf 2 s.port.attention.toNat),
    exec_readAttention h, ?frame, rfl, rfl, ?bits, hfield.trans_lt hset, s.attentionRestored_raised, rfl⟩
  case frame => exact State.answering_frame s.attentionRestored_frame _ _
  case bits =>
    intro c
    change _ ↔ field (0x00 :: bytesOf 2 s.port.attention.toNat) 1 2 / 2 ^ c.bit % 2 = 1
    rw [hfield]
    exact s.raised_iff c

theorem HostPort.reset_mask (c : Cause) : HostPort.reset.mask.getLsbD c.bit = true := by cases c <;> rfl

theorem State.attn_iff (s : State) :
    s.attn = true ↔ ∃ c : Cause, s.raised c = true ∧ s.port.mask.getLsbD c.bit = true := by
  rw [State.attn, bne_iff_ne]
  exact and_ne_zero_iff_cause _ _

theorem setMaskCommand_refused {causes : Word16} (h : 512 ≤ causes.toNat) (s : State) :
    setMaskCommand causes s = (.only .arg, s) := if_neg (Nat.not_lt.mpr h)

theorem setMaskCommand_taken {causes : Word16} (h : causes.toNat < 512) (s : State) :
    setMaskCommand causes s = (.only .ok, s.setPort { s.port with mask := causes.setWidth 9 }) := if_pos h

theorem exec_setMask {causes : Word16} {answer : Answer} {s t : State} (h : s.port.transaction = .command)
    (hcommand : setMaskCommand causes s = (answer, t)) : exec (.setMask causes) s =
      .next (t.answering (0x30 :: bytesOf 2 causes.toNat) (answer.status.code :: answer.response)) :=
  congrArg Host.Outcome.next (takeCommand_answering h hcommand _)

/-- Settles O19: the low nine bits of the argument are the causes' bits, so the mask holds the argument's set. -/
theorem maskDecidesAttn : Obligations.MaskDecidesAttn := by
  refine ⟨fun causes s h => ⟨fun unused => ?refused, fun used => ?taken⟩, State.attn_iff,
    fun c d s => raise_raised d c s, fun s => ?reset, rfl⟩
  case refused => exact exec_setMask h (setMaskCommand_refused unused s)
  case taken =>
    refine ⟨_, exec_setMask h (setMaskCommand_taken used s), fun c => ?_, rfl⟩
    simp [c.bit_lt]
  case reset => exact ⟨s.inReset, s.inReset, rfl, rfl, fun c => ⟨HostPort.reset_mask c, HostPort.reset_mask c⟩⟩

/-! ## The settings of an input -/

/-- The unused bits of the settings byte are bits 2 to 6 (R169 "Input argument"). -/
theorem unusedBits_zero_iff (settings : Byte) : settings &&& 0x7C = 0 ↔ settings.toNat / 4 % 32 = 0 := by
  revert settings
  decide

theorem getLsbD_seven (b : Byte) : b.getLsbD 7 = decide (128 ≤ b.toNat) :=
  (BitVec.msb_eq_getLsbD_last b).symm.trans (BitVec.msb_eq_decide b)

theorem inputArgument_inRange_iff (settings debounce chatter : Byte) :
    (inputArgument settings debounce chatter).inRange = true ↔
      1 ≤ debounce.toNat ∧ debounce.toNat ≤ 64 ∧ chatter.toNat ≠ 1 := by
  have hchatter : chatter.toNat ≤ 255 := Nat.le_of_lt_succ chatter.isLt
  simp [InputSettings.inRange, inputArgument, hchatter, and_assoc]

/-- What WRITE_INPUT refuses with ARG (R162, R175). -/
def inputRefused (number settings debounce chatter : Byte) : Prop :=
  7 < number.toNat ∨ debounce.toNat < 1 ∨ 64 < debounce.toNat ∨ chatter.toNat = 1 ∨ settings.toNat / 4 % 32 ≠ 0

section WriteInput

variable {number settings debounce chatter : Byte} {s : State}

theorem not_inputRefused_iff : ¬ inputRefused number settings debounce chatter ↔ number.toNat < 8 ∧
    (settings &&& 0x7C = 0 && (inputArgument settings debounce chatter).inRange) = true := by
  rw [Bool.and_eq_true, decide_eq_true_iff, inputArgument_inRange_iff, unusedBits_zero_iff, inputRefused]
  omega

theorem writeInputCommand_frozen (h : s.ctrl.station ≠ .config) :
    writeInputCommand number settings debounce chatter s = (.only .state, s) := if_pos h

theorem writeInputCommand_refused (h : s.ctrl.station = .config)
    (refused : inputRefused number settings debounce chatter) :
    writeInputCommand number settings debounce chatter s = (.only .arg, s) := by
  unfold writeInputCommand
  rw [if_neg (not_not.mpr h)]
  dsimp only
  split
  case isTrue hnumber => exact if_neg fun hargument => not_inputRefused_iff.mpr ⟨hnumber, hargument⟩ refused
  case isFalse => rfl

theorem writeInputCommand_taken (h : s.ctrl.station = .config) (hnumber : number.toNat < 8)
    (hargument : (settings &&& 0x7C = 0 && (inputArgument settings debounce chatter).inRange) = true) :
    writeInputCommand number settings debounce chatter s = (.only .ok, s.setSettings { s.settings with
      inputs := s.settings.inputs.set number.toNat (inputArgument settings debounce chatter) }) := by
  unfold writeInputCommand
  rw [if_neg (not_not.mpr h)]
  exact (dif_pos hnumber).trans (if_pos hargument)

theorem exec_writeInput {answer : Answer} {t : State} (h : s.port.transaction = .command)
    (hcommand : writeInputCommand number settings debounce chatter s = (answer, t)) :
    exec (.writeInput number settings debounce chatter) s =
      .next (t.answering [0x41, number, settings, debounce, chatter] (answer.status.code :: answer.response)) :=
  congrArg Host.Outcome.next (takeCommand_answering h hcommand _)

end WriteInput

/-- Settles O21: the argument bytes are decoded once, and the input's entry alone is set. -/
theorem inputSettingsWritten : Obligations.InputSettingsWritten := by
  intro number settings debounce chatter s h
  refine ⟨fun frozen => exec_writeInput h (writeInputCommand_frozen frozen),
    fun config refused => exec_writeInput h (writeInputCommand_refused config refused), fun config sound => ?_⟩
  obtain ⟨hnumber, hargument⟩ := not_inputRefused_iff.mp sound
  refine ⟨_, exec_writeInput h (writeInputCommand_taken config hnumber hargument), fun i => ?_, rfl⟩
  refine (Vector.getElem_set hnumber i.isLt).trans ?_
  rw [inputArgument, getLsbD_seven]
  exact if_congr eq_comm rfl rfl

/-! ## The release of SELn -/

/-- s with SELn high. -/
def State.deselected (s : State) : State := s.setPins { s.pins with selnLow := false }

theorem HostPort.response_of_readingRecord {p : HostPort} (h : p.readingRecord = true) : p.transaction = .response := by
  simp only [HostPort.readingRecord, Bool.and_eq_true, beq_iff_eq] at h
  obtain ⟨⟨hresponse, -⟩, -⟩ := h
  exact hresponse

theorem Journal.completeRead_of_pinned {j : Journal} (h : j.pinned = true) :
    j.completeRead = { j with released := j.released.tail, pinned := false } := if_pos h

section Release

variable {s : State}

theorem endTransaction_journal_complete (reading : s.port.readingRecord = true) (sent : 17 ≤ s.port.bytesSent) :
    (endTransaction s).journal = s.journal.completeRead := (if_pos reading).trans (if_pos sent)

theorem endTransaction_journal_abandoned (reading : s.port.readingRecord = true) (sent : s.port.bytesSent ≤ 16) :
    (endTransaction s).journal = s.journal.abandonRead := (if_pos reading).trans (if_neg (by omega))

theorem endTransaction_journal_other (other : s.port.readingRecord = false) :
    (endTransaction s).journal = s.journal := if_neg (by simp [other])

theorem exec_selnReleased_idle (h : s.port.transaction = .idle) : exec .selnReleased s = .next s.deselected :=
  congrArg Host.Outcome.next (if_pos h)

theorem exec_selnReleased_of_transaction (h : s.port.transaction ≠ .idle) :
    exec .selnReleased s = .next (endTransaction s.deselected) := congrArg Host.Outcome.next (if_neg h)

end Release

/-- Settles O6: in IDLE no read is under way and the level alone changes; else the transaction ends, and a read under
way has its head pinned. -/
theorem selectReleaseEndsTransaction : Obligations.SelectReleaseEndsTransaction := by
  intro s kept
  by_cases hidle : s.port.transaction = .idle
  case pos =>
    have htimer : s.port.timer = none := by
      rw [← Option.not_isSome_iff_eq_none, kept.timer, hidle]
      decide
    have hreading : ¬ s.port.readingRecord = true := fun h => by
      simp [HostPort.response_of_readingRecord h] at hidle
    exact ⟨s.deselected, exec_selnReleased_idle hidle, hidle, htimer, by simp [State.sdo, State.deselected, hidle],
      fun _ => rfl, fun h => absurd hidle h, fun h => absurd h hreading, fun h => absurd h hreading, fun _ => rfl, rfl⟩
  case neg =>
    refine ⟨endTransaction s.deselected, exec_selnReleased_of_transaction hidle, rfl, rfl, rfl,
      fun h => absurd h hidle, fun _ => rfl, fun reading sent => ?complete, ?abandoned, ?other, rfl⟩
    case complete =>
      have hpinned : s.journal.pinned = true := kept.pin.trans reading
      exact (endTransaction_journal_complete reading sent).trans (Journal.completeRead_of_pinned hpinned)
    case abandoned => exact endTransaction_journal_abandoned
    case other => exact endTransaction_journal_other

end Sys2Proof.Machine
end

section
/-! SUPPORT. WRITE_PROFILE (R161, R172): the arguments it refuses, its three answers, and the statement about them. -/

namespace Sys2Proof.Machine

/-- What WRITE_PROFILE refuses with ARG (R172). -/
def Profile.Refused (p : Profile) : Prop :=
  p.slotCount < 4 ∨ p.slotCount > 16 ∨
  p.slotLength < 300 ∨ p.slotLength > 4000 ∨ p.slotLength % 50 ≠ 0 ∨
  p.window < 2 ∨ p.window > 50 ∨
  p.correctionLimit < 1 ∨ p.correctionLimit > 20 ∨ p.correctionLimit > p.window ∨
  p.exclusion < 1 ∨ p.exclusion > 8 ∨ p.guard > 1000

theorem Profile.not_refused_iff (p : Profile) : ¬ p.Refused ↔ p.inRange = true := by
  simp only [Profile.Refused, Profile.inRange, Bool.and_eq_true, decide_eq_true_eq]
  omega

section WriteProfile

variable {p : Profile} {s : State}

theorem writeProfileCommand_frozen (h : s.ctrl.station ≠ .config) :
    writeProfileCommand p s = (.only .state, s) := if_pos h

theorem writeProfileCommand_refused (h : s.ctrl.station = .config) (refused : p.Refused) :
    writeProfileCommand p s = (.only .arg, s) :=
  (if_neg (not_not.mpr h)).trans (if_neg fun sound => p.not_refused_iff.mpr sound refused)

theorem writeProfileCommand_taken (h : s.ctrl.station = .config) (sound : ¬ p.Refused) :
    writeProfileCommand p s = (.only .ok, s.setSettings { s.settings with profile := p }) :=
  (if_neg (not_not.mpr h)).trans (if_pos (p.not_refused_iff.mp sound))

end WriteProfile

/-- The profile that the operands of WRITE_PROFILE give (R169). -/
def Profile.ofOperands (slotCount : Byte) (slotLength : Word16) (window limit exclusion : Byte) (guard : Word16) :
    Profile :=
  { slotCount := slotCount.toNat, slotLength := slotLength.toNat, window := window.toNat
    correctionLimit := limit.toNat, exclusion := exclusion.toNat, guard := guard.toNat }

theorem exec_writeProfile {slotCount window limit exclusion : Byte} {slotLength guard : Word16} {answer : Answer}
    {s t : State} (h : s.port.transaction = .command)
    (hcommand : writeProfileCommand (.ofOperands slotCount slotLength window limit exclusion guard) s = (answer, t)) :
    exec (.writeProfile slotCount slotLength window limit exclusion guard) s =
      .next (t.answering
        ([0x40, slotCount] ++ bytesOf 2 slotLength.toNat ++ [window, limit, exclusion] ++ bytesOf 2 guard.toNat)
        (answer.status.code :: answer.response)) :=
  congrArg Host.Outcome.next (takeCommand_answering h hcommand _)

/-- Settles O20: the six operands make one profile, which is refused or replaces the one held as a whole. -/
theorem profileWrittenInRange : Obligations.ProfileWrittenInRange := by
  intro slotCount slotLength window limit exclusion guard s h
  refine ⟨fun frozen => ?state, fun config out => ?arg, fun config sound => ?ok⟩
  case state => exact exec_writeProfile h (writeProfileCommand_frozen frozen)
  case arg => exact exec_writeProfile h (writeProfileCommand_refused config out)
  case ok => exact exec_writeProfile h (writeProfileCommand_taken config sound)

end Sys2Proof.Machine
end

section
/-! SUPPORT. What each shared operation can do, once: for every act of the Station Controller, the Time Unit, the
Membership Table, the Outbound Queue and the Host Port the states it may leave, as an induction rule with the conditions
under which it leaves them. Invariants and frames are derived from these rules. -/

namespace Sys2Proof.Machine

variable {P : State → Prop}

/-- The station states in which a station runs: all but CONFIG, DEPARTED and FAULT. -/
def StationState.Running (st : StationState) : Prop := st = .listen ∨ st = .coldstart ∨ st = .integrate ∨ st = .active

/-! ## Frames at the Station Controller -/

theorem lineActivity_ind (s : State)
    (restarted : s.ctrl.listenRestarts < 8 → P (s.setCtrl { s.ctrl with
      listenTimer := some s.listenDuration, listenRestarts := s.ctrl.listenRestarts + 1 }))
    (same : P s) : P (lineActivity s) := iteInduction restarted fun _ => same

theorem controllerTakeFrame_ind (f : Frame) (localAt : Nat) (s : State)
    (fault : s.ctrl.station.Running → f.station = s.own → P (enterFault s))
    (integrates : s.ctrl.station = .listen ∨ s.ctrl.station = .coldstart → s.integratesOn f = true →
      P (enterIntegrate f localAt s))
    (activity : s.ctrl.station = .listen → P (lineActivity s))
    (heard : ∀ round b, s.ctrl.station = .integrate → s.ctrl.integration = some (round, b) →
      P (s.setCtrl { s.ctrl with integration := some (round, true) }))
    (same : P s) : P (controllerTakeFrame f localAt s) := by
  unfold controllerTakeFrame
  split
  case h_1 hs =>
    exact iteInduction (fun own => fault (.inl hs) (eq_of_beq own)) fun _ =>
      iteInduction (integrates (.inl hs)) fun _ => activity hs
  case h_2 hs =>
    exact iteInduction (fun own => fault (.inr (.inl hs)) (eq_of_beq own)) fun _ =>
      iteInduction (integrates (.inr hs)) fun _ => same
  case h_3 hs =>
    refine iteInduction (fun own => fault (.inr (.inr (.inl hs))) (eq_of_beq own)) fun _ => ?_
    split
    · exact iteInduction (fun _ => heard _ _ hs ‹_›) fun _ => same
    all_goals exact same
  case h_4 hs => exact iteInduction (fun own => fault (.inr (.inr (.inr hs))) (eq_of_beq own)) fun _ => same
  all_goals exact same

theorem controllerTakeGarbled_ind (s : State) (activity : s.ctrl.station = .listen → P (lineActivity s))
    (relisten : s.ctrl.station = .coldstart → P (enterListen s)) (same : P s) : P (controllerTakeGarbled s) := by
  unfold controllerTakeGarbled
  split
  · exact activity ‹_›
  · exact relisten ‹_›
  all_goals exact same

theorem controllerTakeForeign_ind (s : State) (activity : s.ctrl.station = .listen → P (lineActivity s))
    (same : P s) : P (controllerTakeForeign s) := by
  unfold controllerTakeForeign
  split
  · exact activity ‹_›
  all_goals exact same

theorem controllerTakeEcho_ind (kind : FrameKind) (good : Bool) (s : State)
    (relisten : s.ctrl.station = .coldstart → P (enterListen s))
    (run : ∀ n ≤ 2, s.ctrl.station = .active → P (s.setCtrl { s.ctrl with echoRun := n }))
    (third : s.ctrl.station = .active → P (reintegrate s)) (same : P s) : P (controllerTakeEcho kind good s) := by
  unfold controllerTakeEcho
  split
  · exact relisten ‹_›
  · exact run 0 (by decide) ‹_›
  · exact iteInduction (fun _ => third ‹_›) fun _ => run _ (by omega) ‹_›
  · exact same

/-! ## Boundaries at the Station Controller -/

theorem drainRoundEnd_ind (s : State)
    (counted : ∀ n ≤ 8, s.ctrl.leavePending = true → s.ctrl.station.Running →
      P (s.setCtrl { s.ctrl with drainCount := n }))
    (ordered : ∀ n ≤ 8, s.ctrl.leavePending = true → s.ctrl.station = .active →
      P (s.setCtrl { s.ctrl with drainCount := n, departingOrder := true }))
    (departs : ∀ n ≤ 8, s.ctrl.station.Running →
      P (enterDeparted (s.setCtrl { s.ctrl with drainCount := n })))
    (same : P s) : P (drainRoundEnd s) := by
  have le : min 8 (s.ctrl.drainCount + 1) ≤ 8 := Nat.min_le_left _ _
  refine iteInduction (fun pending => ?_) fun _ => same
  dsimp only
  split
  case h_1 hs => exact iteInduction (fun _ => ordered _ le pending hs) fun _ => counted _ le pending (.inr (.inr (.inr hs)))
  case h_2 hs => exact iteInduction (fun _ => departs _ le (.inl hs)) fun _ => counted _ le pending (.inl hs)
  case h_3 hs => exact iteInduction (fun _ => departs _ le (.inr (.inl hs))) fun _ => counted _ le pending (.inr (.inl hs))
  case h_4 hs =>
    exact iteInduction (fun _ => departs _ le (.inr (.inr (.inl hs)))) fun _ => counted _ le pending (.inr (.inr (.inl hs)))
  all_goals exact same

theorem State.integrationEndsAt_station {s : State} {b : SlotStart} {heard : Bool}
    (h : s.integrationEndsAt b = some heard) : s.ctrl.station = .integrate := by
  unfold State.integrationEndsAt at h
  split at h
  case isTrue hs => simp only [Bool.and_eq_true, decide_eq_true_eq] at hs; exact hs.1
  case isFalse => simp at h

theorem controllerEntry_ind (b : SlotStart) (s : State)
    (active : ∀ i, s.ctrl.station = .coldstart ∨ s.ctrl.station = .integrate → P (enterActive i b s))
    (relisten : s.ctrl.station = .integrate → P (enterListen s)) (same : P s) : P (controllerEntry b s).1 := by
  unfold controllerEntry
  split
  case isTrue ends =>
    simp only [State.contentionEndsAt, Bool.and_eq_true, beq_iff_eq] at ends
    exact active false (.inl ends.1.1)
  case isFalse =>
    split
    · exact active true (.inr (State.integrationEndsAt_station ‹_›))
    · exact relisten (State.integrationEndsAt_station ‹_›)
    · exact same

/-- The Station Controller after the entry and the drain of a boundary, before any order is placed (R36). -/
def State.settledAt (b : SlotStart) (s : State) : State :=
  if b.slot = 0 then drainRoundEnd (controllerEntry b s).1 else (controllerEntry b s).1

theorem controllerBoundary_eq (b : SlotStart) (s : State) : controllerBoundary b s =
    if (s.settledAt b).ctrl.station == .active && ((controllerEntry b s).2 || b.slot == s.own.val) then
      placeOrder { kind := .beacon, departing := (s.settledAt b).ctrl.departingOrder, round := b.round } (s.settledAt b)
    else s.settledAt b := rfl

theorem controllerBoundary_ind (b : SlotStart) (s : State) (entry : P (controllerEntry b s).1)
    (drain : ∀ u, P u → P (drainRoundEnd u)) (order : ∀ o u, P u → u.ctrl.station = .active → P (placeOrder o u)) :
    P (controllerBoundary b s) := by
  have settled : P (s.settledAt b) := iteInduction (fun _ => drain _ entry) fun _ => entry
  rw [controllerBoundary_eq]
  refine iteInduction (fun h => order _ _ settled ?_) fun _ => settled
  simp only [Bool.and_eq_true, beq_iff_eq] at h
  exact h.1

theorem takeCorrectionReport_ind (r : CorrectionReport) (s : State)
    (run : ∀ n ≤ 2, s.ctrl.station = .active → P (s.setCtrl { s.ctrl with clampedRun := n }))
    (third : s.ctrl.station = .active → P (reintegrate s)) (same : P s) : P (takeCorrectionReport r s) := by
  refine iteInduction (fun hs => ?_) fun _ => same
  split
  · exact iteInduction (fun _ => third hs) fun _ => run _ (by omega) hs
  all_goals exact run 0 (by decide) hs

theorem takeViewReport_ind (s : State) (failed : s.ctrl.station = .active → P (reintegrate s)) (same : P s) :
    P (takeViewReport s) := iteInduction failed fun _ => same

/-! ## The other blocks -/

theorem timeTakeFrame_ind (f : Frame) (sof : CommonTime) (s : State)
    (measured : s.measures f = true → P (s.setTime { s.time with
      deviations := s.time.deviations ++ [(f.station, s.settings.profile.deviation f.station sof)] }))
    (same : P s) : P (timeTakeFrame f sof s) := by
  refine iteInduction (fun h => measured ?_) fun _ => same
  simp only [Bool.and_eq_true] at h
  exact h.1

theorem timeRoundEnd_ind (b : SlotStart) (s : State) (emptied : P (s.setTime { s.time with deviations := [] }))
    (corrected : s.ctrl.slotTimer.isSome = true → P (holdPersistent (s.setTime
      ((s.time.correct s.settings.profile.correctionLimit (b.round - 1)).requalify s.ctrl.station))))
    (same : P s) : P (timeRoundEnd b s).1 := by
  unfold timeRoundEnd
  split
  case isTrue => exact same
  case isFalse runs =>
    split
    · exact emptied
    · exact corrected (Option.isSome_iff_ne_none.mpr fun h => runs (by rw [h]; rfl))

theorem membershipTakeFrame_ind (f : Frame) (s : State)
    (dropped : s.ctrl.station = .active → f.station ≠ s.own →
      P (raiseIf s.members.peers[f.station].inView .memberLoss (s.setMembers (s.members.dropDeparting f))))
    (heard : s.ctrl.station = .active → f.station ≠ s.own → P (s.setMembers (s.members.hear s.own f)))
    (noted : s.ctrl.station = .integrate → f.station ≠ s.own → ∀ h : Bool,
      (h = s.members.peers[f.station].heard ∨ h = true) →
      P (s.setMembers (s.members.setPeer f.station { s.members.peers[f.station].note f with heard := h })))
    (same : P s) : P (membershipTakeFrame f s) := by
  refine iteInduction (fun _ => same) fun other => ?_
  simp only [Bool.or_eq_true, beq_iff_eq, not_or] at other
  split
  case h_1 hs => exact iteInduction (fun _ => dropped hs other.2) fun _ => heard hs other.2
  case h_2 hs =>
    exact iteInduction (fun _ => noted hs other.2 _ (.inl rfl)) fun _ =>
      iteInduction (fun _ => noted hs other.2 _ (.inr rfl)) fun _ => same
  all_goals exact same

theorem removeWhile_ind (test : QueuedRecord → Bool) (s : State)
    (removed : P (s.setQueue { s.queue with records := s.queue.records.dropWhile test }))
    (written : ∀ l, s.capture.pendingLoss = some l →
      (s.queue.records.dropWhile test).length < s.queue.records.length →
      P (enqueue l.draft ((s.setQueue { s.queue with records := s.queue.records.dropWhile test }).setCapture
        { s.capture with pendingLoss := none }))) : P (removeWhile test s) := by
  refine iteInduction (fun fewer => ?_) fun _ => removed
  unfold writePendingLoss
  split
  · exact removed
  · exact written _ ‹_› fewer

theorem removeAcknowledged_ind (s : State) (removed : ∀ test, P (removeWhile test s)) (same : P s) :
    P (removeAcknowledged s) := iteInduction (fun _ => same) fun _ => removed _

theorem outboundRoundEnd_ind (s : State) (removed : ∀ test, s.ctrl.station = .active → P (removeWhile test s))
    (same : P s) : P (outboundRoundEnd s) :=
  iteInduction (fun hs => iteInduction (fun _ => removed _ hs) fun _ =>
    removeAcknowledged_ind s (fun test => removed test hs) same) fun _ => same

theorem outboundTakeFrame_ind (f : Frame) (s : State)
    (taken : f.station ≠ s.own → s.ctrl.station.Running → P (s.ackTaken f))
    (removed : ∀ test, f.station ≠ s.own → s.ctrl.station = .active → P (removeWhile test (s.ackTaken f)))
    (same : P s) : P (outboundTakeFrame f s) := by
  refine iteInduction (fun _ => same) fun other => ?_
  simp only [Bool.or_eq_true, beq_iff_eq, not_or] at other
  dsimp only
  split
  case h_1 hs =>
    exact removeAcknowledged_ind _ (fun test => removed test other.2 hs) (taken other.2 (.inr (.inr (.inr hs))))
  case h_2 hs => exact taken other.2 (.inl hs)
  case h_3 hs => exact taken other.2 (.inr (.inl hs))
  case h_4 hs => exact taken other.2 (.inr (.inr (.inl hs)))
  all_goals exact same

theorem journalBoundary_ind (s : State) (stepped : ∀ c, P (s.setJournal (s.journal.releaseStep c))) (same : P s) :
    P (journalBoundary s) := by
  refine iteInduction (fun _ => ?_) fun _ => same
  split
  · exact stepped _
  · exact same

/-- The Receipt Unit's processing changes the receipts of the sender and the two receipt counters, and inserts
accepted announcements into the Journal. -/
theorem takeAnnouncements_ind (f : Frame) (ws : List WireRecord) (s : State) (same : P s)
    (inserted : ∀ w u, P u → P (journalInsert (WireRecord.complete w f) u))
    (received : ∀ q u, P u → P (u.setReceived f.station q))
    (counted : ∀ d g u, P u → d = u.receipts.duplicates ∨ d ≤ 65535 → g = u.receipts.gaps ∨ g ≤ 65535 →
      P (u.setReceipts { u.receipts with duplicates := d, gaps := g })) : P (takeAnnouncements f ws s) := by
  have le (a b : Nat) : countUp a b ≤ 65535 := Nat.min_le_right _ _
  induction ws generalizing s with
  | nil => exact same
  | cons w ws ih =>
    unfold takeAnnouncements
    split
    · exact ih _ (received _ _ (inserted _ _ same))
    · exact ih _ (counted _ _ _ same (.inr (le _ _)) (.inl rfl))
    · have gap (n : Nat) : P (countGaps n s) := counted _ _ _ same (.inl rfl) (.inr (le _ _))
      exact iteInduction (fun _ => received _ _ (gap _)) fun _ => ih _ (received _ _ (inserted _ _ (gap _)))

theorem receiptOpening_ind (f : Frame) (s : State) (same : P s)
    (entry : ∀ e u, P u → P (u.setReceipt f.station e))
    (counted : ∀ d g u, P u → d = u.receipts.duplicates ∨ d ≤ 65535 → g = u.receipts.gaps ∨ g ≤ 65535 →
      P (u.setReceipts { u.receipts with duplicates := d, gaps := g })) : P (receiptOpening f s) :=
  iteInduction (fun _ => counted _ _ _ (entry _ _ same) (.inl rfl) (.inr (Nat.min_le_right _ _))) fun _ => entry _ _ same

theorem processBeacon_ind (f : Frame) (s : State) (same : P s)
    (inserted : ∀ w u, P u → P (journalInsert (WireRecord.complete w f) u))
    (entry : ∀ e u, P u → P (u.setReceipt f.station e))
    (counted : ∀ d g u, P u → d = u.receipts.duplicates ∨ d ≤ 65535 → g = u.receipts.gaps ∨ g ≤ 65535 →
      P (u.setReceipts { u.receipts with duplicates := d, gaps := g })) : P (processBeacon f s) := by
  have opened := receiptOpening_ind f s same entry counted
  refine entry _ _ (iteInduction (fun _ => ?_) fun _ => ?_)
  · unfold emptyBeaconStep
    split
    · exact opened
    · exact entry _ _ opened
    · exact iteInduction (fun _ => counted _ _ _ (entry _ _ opened) (.inl rfl) (.inr (Nat.min_le_right _ _)))
        fun _ => opened
  · exact takeAnnouncements_ind f _ _ opened inserted (fun _ _ h => entry _ _ h) counted

theorem receiptTakeFrame_ind (integrating : Bool) (f : Frame) (s : State)
    (processed : f.station ≠ s.own → s.ctrl.station = .active ∨ s.ctrl.station = .integrate ∨ integrating = true →
      P (processBeacon f s)) (same : P s) : P (receiptTakeFrame integrating f s) := by
  rw [receiptTakeFrame_eq]
  exact iteInduction (fun h => processed h.2.1 h.2.2) fun _ => same

/-- The state in which the content of an order has been taken and is being sent (R4, R97, R98). -/
def State.contentSent (s : State) (o : TransmitOrder) : State :=
  { s with
    queue := match o.kind with
      | .startup => s.queue
      | .beacon => s.queue.announce
    line := { s.line with
      transmitter := .sendingBody o (sendingTime (s.frameFor o))
      echo := some ((s.frameFor o).kind, preambleBytes ++ (s.frameFor o).bytes) } }

theorem sendContent_eq (o : TransmitOrder) (s : State) : sendContent o s =
    if o.kind == .beacon && o.departing && s.ctrl.station == .active then enterDeparted (s.contentSent o)
    else s.contentSent o := rfl

theorem sendContent_ind (o : TransmitOrder) (s : State) (sent : P (s.contentSent o))
    (departs : s.ctrl.station = .active → P (enterDeparted (s.contentSent o))) : P (sendContent o s) := by
  rw [sendContent_eq]
  refine iteInduction (fun h => departs ?_) fun _ => sent
  simp only [Bool.and_eq_true, beq_iff_eq] at h
  exact h.2

/-! ## Samples -/

theorem State.producing_running {s : State} (h : s.producing = true) :
    s.ctrl.station.Running ∧ (s.ctrl.station = .listen → s.time.quality ≠ .noTime) ∧ s.ctrl.leavePending = false := by
  simp only [State.producing, State.holdsTime, Bool.and_eq_true, Bool.not_eq_true'] at h
  cases hs : s.ctrl.station <;> simp_all [StationState.Running]

theorem sampleDrafts_producing {levels : BitVec 8} {s : State} (h : s.sampleDrafts levels ≠ []) :
    s.producing = true := by
  by_contra hp
  refine h (List.filterMap_eq_nil_iff.mpr fun i _ => ?_)
  rw [Bool.not_eq_true] at hp
  have change (c : InputSettings) (chattering starts : Bool) (source : InputNo) (first : Stamp) (level : Bool) :
      changeDraft c s.producing chattering starts source first level = none := by simp [changeDraft, hp]
  have sampled (c : InputSettings) (stamp : Stamp) (level : Bool) (t : Tracker) :
      (t.sample c s.producing stamp i level).2 = none := by
    unfold Tracker.sample
    dsimp only
    split <;> [rfl; exact change ..]
  have ended (c : InputSettings) (stamp : Stamp) (t : Tracker) : (t.endWindow c s.producing stamp i).2 = none := by
    simp [Tracker.endWindow, hp]
  unfold State.sampleInput
  dsimp only
  split
  · simp [sampled, ended]
  · exact sampled ..

theorem handOver_ind (d : Draft) (s : State) (lost : P (loseRecord d s))
    (queued : s.queueClosed = false → P (enqueue d s)) : P (handOver d s) :=
  iteInduction (fun _ => lost) fun h => queued (Bool.eq_false_of_not_eq_true h)

/-- A sample hands records over in a producing station alone, which the hand-over leaves producing. -/
theorem takeSample_ind (levels : BitVec 8) (s : State)
    (sampled : P (s.setCapture { s.capture with
      trackers := Vector.ofFn fun i => (s.sampleInput s.endsWindow levels i).1
      windowCounter := if s.endsWindow then 0 else s.capture.windowCounter + 1
      untilSample := some 100 }))
    (handed : ∀ d u, P u → u.ctrl = s.ctrl → u.time = s.time → s.producing = true → P (handOver d u)) :
    P (takeSample levels s) := by
  have fold (ds : List Draft) (hp : ds ≠ [] → s.producing = true) (u : State) (hu : P u) (ctrl : u.ctrl = s.ctrl)
      (time : u.time = s.time) : P (ds.foldl (fun s d => handOver d s) u) := by
    induction ds generalizing u with
    | nil => exact hu
    | cons d ds ih =>
      have producing := hp (List.cons_ne_nil d ds)
      exact ih (fun _ => producing) _ (handed d u hu ctrl time producing) (by simp [ctrl]) (by simp [time])
  exact fold _ sampleDrafts_producing _ sampled rfl rfl

/-! ## Host commands -/

/-- The state START leaves before the entry to LISTEN (R20, R158, R177). -/
def State.started (s : State) : State :=
  { s with
    settings := { s.settings with frozen := true, signature := some s.settings.profile.signature }
    line := { s.line with receiverOn := true }
    capture := s.capture.begin }

/-- The states that the host commands leave, without their answers. -/
theorem commandOf_state_ind (s : State) {code : Byte} (same : P s)
    (attention : P (holdPersistent (s.setPort { s.port with attention := 0 })))
    (pinned : code = 0x10 → s.journal.released ≠ [] → P (s.setJournal { s.journal with pinned := true }))
    (injected : ∀ tag, s.producing = true → s.queueClosed = false → P (enqueue (s.hostMark tag) s))
    (masked : ∀ m, P (s.setPort { s.port with mask := m }))
    (cleared : P (clearCounters s))
    (profile : ∀ p : Profile, s.ctrl.station = .config → p.inRange = true →
      P (s.setSettings { s.settings with profile := p }))
    (inputs : ∀ x, s.ctrl.station = .config → P (s.setSettings { s.settings with inputs := x }))
    (start : s.ctrl.station = .config → s.own.val < s.settings.profile.slotCount → P (enterListen s.started))
    (leave : s.ctrl.station = .active → P (s.setCtrl { s.ctrl with
      leavePending := true, drainCount := 0, departingOrder := false }))
    (departs : s.ctrl.station.Running → P (enterDeparted s))
    (rejoinUntimed : s.ctrl.station = .departed → s.time.quality = .noTime → P (enterListen (rejoinBlocks s)))
    (rejoinTimed : s.ctrl.station = .departed → s.time.quality ≠ .noTime →
      P (restartSlotTimer (enterListen (rejoinBlocks s))))
    (args : List Byte) : P (commandOf code args s).2 := by
  generalize hcommand : commandOf code args = command
  unfold commandOf at hcommand
  split at hcommand <;> subst hcommand
  case h_1 | h_2 | h_5 | h_16 => exact same
  case h_3 => exact attention
  case h_10 => exact cleared
  case h_4 => unfold readPeerCommand; split <;> exact same
  case h_6 hc =>
    unfold readRecordCommand
    split
    · exact same
    · exact pinned (BitVec.eq_of_toNat_eq hc) (by simp [*])
  case h_7 => unfold peekRecordCommand; split <;> exact same
  case h_8 =>
    unfold injectCommand
    split
    · exact same
    · split
      · exact same
      · exact injected _ (by simp_all) (by simp_all)
  case h_9 => unfold setMaskCommand; split <;> [exact masked _; exact same]
  case h_11 =>
    unfold writeProfileCommand
    split
    · exact same
    · split <;> [exact profile _ (not_not.mp ‹_›) ‹_›; exact same]
  case h_12 =>
    unfold writeInputCommand
    split
    · exact same
    · dsimp only
      split <;> [split; exact same] <;> [exact inputs _ (not_not.mp ‹_›); exact same]
  case h_13 =>
    unfold startCommand
    split
    · exact same
    · split <;> [exact same; exact start (not_not.mp ‹_›) (Nat.lt_of_not_le ‹_›)]
  case h_14 =>
    unfold leaveCommand
    split
    · exact same
    · split
      case h_1 hs => exact leave hs
      case h_2 hs => exact departs (.inl hs)
      case h_3 hs => exact departs (.inr (.inl hs))
      case h_4 hs => exact departs (.inr (.inr (.inl hs)))
      all_goals exact same
  case h_15 =>
    have quality : (enterListen (rejoinBlocks s)).time.quality = .noTime ↔ s.time.quality = .noTime := by
      rw [(enterListen_spec _).time]
      by_cases h : s.time.quality = .noTime <;> simp [TimeUnit.idleQuality, rejoinBlocks, h]
    refine iteInduction (motive := fun r : Answer × State => P r.2) (fun hs => ?_) fun _ => same
    exact iteInduction (fun h => rejoinUntimed hs (quality.mp h)) fun h => rejoinTimed hs (mt quality.mpr h)

theorem answerWith_eq (bytes : List Byte) (command : State → Answer × State) (s : State) :
    answerWith bytes command s =
      (command s).2.answering bytes ((command s).1.status.code :: (command s).1.response) := rfl

end Sys2Proof.Machine
end

section
/-! SUPPORT. The Host Port during the acts of line, clock and blocks: they add causes to the attention set, take none
from it, and leave the rest of the port as it was (R163). Said once for every shared operation. -/

namespace Sys2Proof.Machine

/-- Of the Host Port nothing but the attention set differs, and no cause has gone from it (R163). -/
structure AttentionGrows (s t : State) : Prop where
  port : SamePort s t
  set : ∀ c, s.raised c = true → t.raised c = true

namespace AttentionGrows

variable {s t u : State}

theorem of_port (h : t.port = s.port) : AttentionGrows s t := ⟨.same h, fun c hc => by simpa [State.raised, h] using hc⟩

theorem refl (s : State) : AttentionGrows s s := of_port rfl

theorem trans (h : AttentionGrows s t) (k : AttentionGrows t u) : AttentionGrows s u :=
  ⟨h.port.trans k.port, fun c hc => k.set c (h.set c hc)⟩

/-- An act that follows an update of other blocks. -/
theorem after (k : AttentionGrows t u) (h : t.port = s.port) : AttentionGrows s u := (of_port h).trans k

theorem ite {p : Prop} [Decidable p] (h : p → AttentionGrows s t) (k : ¬ p → AttentionGrows s u) :
    AttentionGrows s (if p then t else u) := by
  split
  · exact h ‹_›
  · exact k ‹_›

theorem transaction (h : AttentionGrows s t) : t.port.transaction = s.port.transaction := by rw [h.port]

theorem readingRecord (h : AttentionGrows s t) : t.port.readingRecord = s.port.readingRecord := by rw [h.port]; rfl

theorem timer (h : AttentionGrows s t) : t.port.timer = s.port.timer := by rw [h.port]

theorem bitCount (h : AttentionGrows s t) : t.port.bitCount = s.port.bitCount := by rw [h.port]

end AttentionGrows

open AttentionGrows

/-! ## Causes and records -/

theorem raise_grows (c : Cause) (s : State) : AttentionGrows s (raise c s) :=
  ⟨.of rfl, fun d hd => (raise_raised d c s).mpr (.inl hd)⟩

theorem raiseIf_grows (b : Bool) (c : Cause) (s : State) : AttentionGrows s (raiseIf b c s) :=
  ite (fun _ => raise_grows c s) fun _ => refl s

theorem holdPersistent_grows (s : State) : AttentionGrows s (holdPersistent s) :=
  (raiseIf_grows _ _ _).trans (raiseIf_grows _ _ _)

theorem journalInsert_grows (r : JournalRecord) (s : State) : AttentionGrows s (journalInsert r s) :=
  ((raiseIf_grows _ _ _).after (State.setJournal_port s _)).trans (raiseIf_grows _ _ _)

theorem enqueue_grows (d : Draft) (s : State) : AttentionGrows s (enqueue d s) :=
  (journalInsert_grows _ _).after (State.setQueue_port s _)

theorem loseRecord_grows (d : Draft) (s : State) : AttentionGrows s (loseRecord d s) :=
  (raiseIf_grows _ _ _).after rfl

theorem handOver_grows (d : Draft) (s : State) : AttentionGrows s (handOver d s) :=
  ite (fun _ => loseRecord_grows d s) fun _ => enqueue_grows d s

theorem handOverAll_grows (ds : List Draft) (s : State) :
    AttentionGrows s (ds.foldl (fun s d => handOver d s) s) := by
  induction ds generalizing s with
  | nil => exact refl s
  | cons d ds ih => exact (handOver_grows d s).trans (ih _)

theorem takeSample_grows (levels : BitVec 8) (s : State) : AttentionGrows s (takeSample levels s) :=
  (handOverAll_grows _ _).after (State.setCapture_port s _)

theorem removeWhile_grows (test : QueuedRecord → Bool) (s : State) : AttentionGrows s (removeWhile test s) :=
  removeWhile_ind test s (of_port rfl) fun _ _ _ => (enqueue_grows _ _).after rfl

theorem removeAcknowledged_grows (s : State) : AttentionGrows s (removeAcknowledged s) :=
  removeAcknowledged_ind s (fun test => removeWhile_grows test s) (refl s)

/-! ## Changes of station state -/

theorem changeStation_grows (st : StationState) (s : State) : AttentionGrows s (changeStation st s) :=
  ⟨changeStation_port st s, fun c hc => (changeStation_raised c st s).mpr (.inl hc)⟩

theorem enterListen_grows (s : State) : AttentionGrows s (enterListen s) :=
  (changeStation_grows _ _).after rfl

theorem reintegrate_grows (s : State) : AttentionGrows s (reintegrate s) :=
  (enterListen_grows _).after (State.setCtrl_port s _)

theorem retire_grows (st : StationState) (s : State) : AttentionGrows s (retire st s) :=
  (changeStation_grows _ _).after rfl

theorem enterDeparted_grows (s : State) : AttentionGrows s (enterDeparted s) :=
  (retire_grows _ _).after (State.setQueue_port s _)

theorem enterFault_grows (s : State) : AttentionGrows s (enterFault s) := retire_grows _ s

theorem placeOrder_grows (o : TransmitOrder) (s : State) : AttentionGrows s (placeOrder o s) := of_port (by simp)

theorem enterColdstart_grows (s : State) : AttentionGrows s (enterColdstart s) := by
  unfold enterColdstart
  refine AttentionGrows.trans ((changeStation_grows _ _).after ?_) (placeOrder_grows _ _)
  rfl

theorem enterIntegrate_grows (f : Frame) (localAt : Nat) (s : State) :
    AttentionGrows s (enterIntegrate f localAt s) :=
  (changeStation_grows _ _).after rfl

theorem membershipEnterActive_grows (i : Bool) (b : SlotStart) (s : State) :
    AttentionGrows s (membershipEnterActive i b s) :=
  (raiseIf_grows _ _ _).after (State.setMembers_port s _)

theorem enterActive_grows (i : Bool) (b : SlotStart) (s : State) : AttentionGrows s (enterActive i b s) := by
  unfold enterActive
  refine AttentionGrows.trans ((changeStation_grows _ _).after ?_) (membershipEnterActive_grows i b _)
  rfl

/-! ## Frames and reports -/

theorem lineActivity_grows (s : State) : AttentionGrows s (lineActivity s) := of_port (by simp)

theorem controllerTakeFrame_grows (f : Frame) (localAt : Nat) (s : State) :
    AttentionGrows s (controllerTakeFrame f localAt s) :=
  controllerTakeFrame_ind f localAt s (fun _ _ => enterFault_grows s) (fun _ _ => enterIntegrate_grows f localAt s)
    (fun _ => lineActivity_grows s) (fun _ _ _ _ => of_port rfl) (refl s)

theorem controllerTakeGarbled_grows (s : State) : AttentionGrows s (controllerTakeGarbled s) :=
  controllerTakeGarbled_ind s (fun _ => lineActivity_grows s) (fun _ => enterListen_grows s) (refl s)

theorem controllerTakeEcho_grows (kind : FrameKind) (good : Bool) (s : State) :
    AttentionGrows s (controllerTakeEcho kind good s) :=
  controllerTakeEcho_ind kind good s (fun _ => enterListen_grows s) (fun _ _ _ => of_port rfl)
    (fun _ => reintegrate_grows s) (refl s)

theorem membershipTakeFrame_grows (f : Frame) (s : State) : AttentionGrows s (membershipTakeFrame f s) :=
  membershipTakeFrame_ind f s (fun _ _ => (raiseIf_grows _ _ _).after rfl) (fun _ _ => of_port rfl)
    (fun _ _ _ _ => of_port rfl) (refl s)

theorem outboundTakeFrame_grows (f : Frame) (s : State) : AttentionGrows s (outboundTakeFrame f s) :=
  outboundTakeFrame_ind f s (fun _ _ => of_port rfl) (fun _ _ _ => (removeWhile_grows _ _).after rfl) (refl s)

theorem processBeacon_grows (f : Frame) (s : State) : AttentionGrows s (processBeacon f s) :=
  processBeacon_ind f s (refl s) (fun _ _ h => h.trans (journalInsert_grows _ _)) (fun _ _ h => h.trans (of_port rfl))
    (fun _ _ _ h _ _ => h.trans (of_port rfl))

theorem receiptTakeFrame_grows (i : Bool) (f : Frame) (s : State) : AttentionGrows s (receiptTakeFrame i f s) :=
  receiptTakeFrame_ind i f s (fun _ _ => processBeacon_grows f s) (refl s)

theorem sendContent_grows (o : TransmitOrder) (s : State) : AttentionGrows s (sendContent o s) :=
  sendContent_ind o s (of_port rfl) fun _ => (enterDeparted_grows _).after rfl

/-! ## Slot boundaries -/

theorem drainRoundEnd_grows (s : State) : AttentionGrows s (drainRoundEnd s) :=
  drainRoundEnd_ind s (fun _ _ _ _ => of_port rfl) (fun _ _ _ _ => of_port rfl)
    (fun _ _ _ => (enterDeparted_grows _).after rfl) (refl s)

theorem controllerEntry_grows (b : SlotStart) (s : State) : AttentionGrows s (controllerEntry b s).1 :=
  controllerEntry_ind b s (fun i _ => enterActive_grows i b s) (fun _ => enterListen_grows s) (refl s)

theorem controllerBoundary_grows (b : SlotStart) (s : State) : AttentionGrows s (controllerBoundary b s) :=
  controllerBoundary_ind b s (controllerEntry_grows b s) (fun _ h => h.trans (drainRoundEnd_grows _))
    (fun _ _ h _ => h.trans (placeOrder_grows _ _))

theorem timeRoundEnd_grows (b : SlotStart) (s : State) : AttentionGrows s (timeRoundEnd b s).1 :=
  timeRoundEnd_ind b s (of_port rfl) (fun _ => (holdPersistent_grows _).after rfl) (refl s)

theorem membershipRoundEnd_grows (b : SlotStart) (s : State) : AttentionGrows s (membershipRoundEnd b s) :=
  ite (fun _ => ((raiseIf_grows _ _ _).after (State.setMembers_port s _)).trans (raiseIf_grows _ _ _)) fun _ => refl s

theorem outboundRoundEnd_grows (s : State) : AttentionGrows s (outboundRoundEnd s) :=
  outboundRoundEnd_ind s (fun test _ => removeWhile_grows test s) (refl s)

theorem takeCorrectionReport_grows (r : CorrectionReport) (s : State) :
    AttentionGrows s (takeCorrectionReport r s) :=
  takeCorrectionReport_ind r s (fun _ _ _ => of_port rfl) (fun _ => reintegrate_grows s) (refl s)

theorem takeViewReport_grows (s : State) : AttentionGrows s (takeViewReport s) :=
  takeViewReport_ind s (fun _ => reintegrate_grows s) (refl s)

end Sys2Proof.Machine
end

section
/-! SUPPORT. The Station Controller, the settings, the timers and the time quality agree with the station state in
every state a step leads to (State.Consistent), and the persistent causes are in the set (State.CausesHeld): what each
change of station state leaves, what keeps the agreement without one, and the statement about every step. -/

namespace Sys2Proof.Machine

/-! ## The persistent causes -/

theorem State.CausesHeld.mono {s t : State} (h : s.CausesHeld) (grows : AttentionGrows s t)
    (station : t.ctrl.station = s.ctrl.station) (quality : t.time.quality = s.time.quality) : t.CausesHeld where
  suspect ht := grows.set _ (h.suspect (by simpa [State.timeSuspect, station, quality] using ht))
  duplicate ht := grows.set _ (h.duplicate (by simpa [State.duplicated, station] using ht))

/-- An act that leaves the Station Controller and the Time Unit leaves what the causes stand for. -/
theorem State.CausesHeld.keep {s t : State} (h : s.CausesHeld) (grows : AttentionGrows s t) (ctrl : t.ctrl = s.ctrl)
    (time : t.time = s.time) : t.CausesHeld := h.mono grows (by rw [ctrl]) (by rw [time])

theorem holdPersistent_causesHeld (s : State) : (holdPersistent s).CausesHeld where
  suspect h := (holdPersistent_raised _ s).mpr (.inr (.inl ⟨by simpa [State.timeSuspect] using h, rfl⟩))
  duplicate h := (holdPersistent_raised _ s).mpr (.inr (.inr ⟨by simpa [State.duplicated] using h, rfl⟩))

/-- Every change of station state holds the persistent causes anew (R163). -/
theorem changeStation_causesHeld (st : StationState) (s : State) : (changeStation st s).CausesHeld :=
  holdPersistent_causesHeld _

theorem enterColdstart_causesHeld (s : State) : (enterColdstart s).CausesHeld := by
  unfold enterColdstart
  exact (changeStation_causesHeld _ _).keep (placeOrder_grows _ _) (by simp) (by simp)

theorem enterActive_causesHeld (i : Bool) (b : SlotStart) (s : State) : (enterActive i b s).CausesHeld := by
  unfold enterActive
  exact (changeStation_causesHeld _ _).keep (membershipEnterActive_grows _ _ _) (by simp) (by simp)

theorem State.CausesHeld.setCtrl {s : State} (h : s.CausesHeld) {c : Controller} (station : c.station = s.ctrl.station) :
    (s.setCtrl c).CausesHeld := h.mono (.of_port rfl) station rfl

theorem enterListen_causesHeld (s : State) : (enterListen s).CausesHeld := changeStation_causesHeld _ _

theorem reintegrate_causesHeld (s : State) : (reintegrate s).CausesHeld := enterListen_causesHeld _

theorem enterFault_causesHeld (s : State) : (enterFault s).CausesHeld := by
  unfold enterFault
  exact changeStation_causesHeld _ _

theorem enterDeparted_causesHeld (s : State) : (enterDeparted s).CausesHeld := by
  unfold enterDeparted
  exact changeStation_causesHeld _ _

theorem lineActivity_causesHeld {s : State} (h : s.CausesHeld) : (lineActivity s).CausesHeld :=
  lineActivity_ind s (fun _ => h.setCtrl rfl) h

theorem controllerBoundary_causesHeld {s : State} (h : s.CausesHeld) (b : SlotStart) :
    (controllerBoundary b s).CausesHeld :=
  controllerBoundary_ind b s
    (controllerEntry_ind b s (fun i _ => enterActive_causesHeld i b s) (fun _ => enterListen_causesHeld s) h)
    (fun u hu => drainRoundEnd_ind u (fun _ _ _ _ => hu.setCtrl rfl) (fun _ _ _ _ => hu.setCtrl rfl)
      (fun _ _ _ => enterDeparted_causesHeld _) hu)
    (fun _ _ hu _ => hu.keep (placeOrder_grows _ _) (by simp) (by simp))

theorem command_causesHeld {s : State} (h : s.CausesHeld) (code : Byte) (args : List Byte) :
    (commandOf code args s).2.CausesHeld :=
  have same (t : State) (station : t.ctrl.station = s.ctrl.station) (quality : t.time.quality = s.time.quality)
      (set : t.port.attention = s.port.attention) : t.CausesHeld :=
    ⟨fun ht => by simpa [State.raised, set] using h.suspect (by simpa [State.timeSuspect, station, quality] using ht),
      fun ht => by simpa [State.raised, set] using h.duplicate (by simpa [State.duplicated, station] using ht)⟩
  commandOf_state_ind s h (holdPersistent_causesHeld _) (fun _ _ => same _ rfl rfl rfl)
    (fun _ _ _ => h.keep (enqueue_grows _ _) (by simp) (by simp)) (fun _ => same _ rfl rfl rfl) (same _ rfl rfl rfl)
    (fun _ _ _ => same _ rfl rfl rfl) (fun _ _ => same _ rfl rfl rfl) (fun _ _ => enterListen_causesHeld _)
    (fun _ => same _ rfl rfl rfl) (fun _ => enterDeparted_causesHeld s) (fun _ _ => enterListen_causesHeld _)
    (fun _ _ => (enterListen_causesHeld _).setCtrl rfl) args

theorem causesHeld_kept : Kept State.CausesHeld where
  inReset s _ := ⟨fun h => absurd h (by simp [State.inReset, State.reset, State.timeSuspect, Controller.reset]),
    fun h => absurd h (by simp [State.inReset, State.reset, State.duplicated, Controller.reset])⟩
  endReset _ _ h _ := ⟨h.suspect, h.duplicate⟩
  select _ _ h := ⟨h.suspect, h.duplicate⟩
  begin _ h _ _ := ⟨h.suspect, h.duplicate⟩
  endTransaction _ h _ := ⟨h.suspect, h.duplicate⟩
  timeout s h _ := ⟨fun hs => (raise_raised _ _ _).mpr (.inl (h.suspect hs)), fun hd => (raise_raised _ _ _).mpr (.inl (h.duplicate hd))⟩
  answer code args s h _ _ :=
    have held := command_causesHeld h code args
    ⟨held.suspect, held.duplicate⟩
  bit _ _ _ h _ _ := ⟨h.suspect, h.duplicate⟩
  receive _ _ h _ := ⟨h.suspect, h.duplicate⟩
  send _ h _ := ⟨h.suspect, h.duplicate⟩
  pass _ _ h := ⟨h.suspect, h.duplicate⟩
  receiver _ _ h _ := ⟨h.suspect, h.duplicate⟩
  valid _ h := ⟨h.suspect, h.duplicate⟩
  garbled _ h := ⟨h.suspect, h.duplicate⟩
  foreign _ h := ⟨h.suspect, h.duplicate⟩
  offSlot _ h := ⟨h.suspect, h.duplicate⟩
  takeGarbled s h := controllerTakeGarbled_ind s (fun _ => lineActivity_causesHeld h) (fun _ => enterListen_causesHeld s) h
  takeForeign s h := controllerTakeForeign_ind s (fun _ => lineActivity_causesHeld h) h
  controllerFrame f localAt s h := controllerTakeFrame_ind f localAt s (fun _ _ => enterFault_causesHeld s)
    (fun _ _ => changeStation_causesHeld _ _) (fun _ => lineActivity_causesHeld h) (fun _ _ _ _ => h.setCtrl rfl) h
  timeFrame f sof s h := timeTakeFrame_ind f sof s (fun _ => h.mono (.of_port rfl) rfl rfl) h
  membershipFrame f s h := h.keep (membershipTakeFrame_grows f s) (by simp) (by simp)
  outboundFrame f s h := h.keep (outboundTakeFrame_grows f s) (by simp) (by simp)
  receiptFrame i f s h _ := h.keep (receiptTakeFrame_grows i f s) (by simp) (by simp)
  startSending _ _ _ h _ := ⟨h.suspect, h.duplicate⟩
  sofMark s o _ h _ := sendContent_ind o s (h.keep (.of_port rfl) rfl rfl) fun _ => enterDeparted_causesHeld _
  sent _ _ _ h _ := ⟨h.suspect, h.duplicate⟩
  echo _ _ h _ := ⟨h.suspect, h.duplicate⟩
  takeEcho kind good s h := controllerTakeEcho_ind kind good s (fun _ => enterListen_causesHeld s)
    (fun _ _ _ => h.setCtrl rfl) (fun _ => reintegrate_causesHeld s) h
  nextSlot _ _ _ h _ := h.setCtrl rfl
  controllerAct b _ h := controllerBoundary_causesHeld h b
  timeAct b s h := timeRoundEnd_ind b s (h.mono (.of_port rfl) rfl rfl) (fun _ => holdPersistent_causesHeld _) h
  membershipAct b s h := h.keep (membershipRoundEnd_grows b s) (by simp) (by simp)
  outboundAct s h := h.keep (outboundRoundEnd_grows s) (by simp) (by simp)
  journalAct s h := h.keep (.of_port (by simp)) (by simp) (by simp)
  correctionReport r s h := takeCorrectionReport_ind r s (fun _ _ _ => h.setCtrl rfl) (fun _ => reintegrate_causesHeld s) h
  viewReport s h := takeViewReport_ind s (fun _ => reintegrate_causesHeld s) h
  coldstart s _ _ := enterColdstart_causesHeld s
  sample levels s h _ := h.keep (takeSample_grows levels s) (by simp) (by simp)

end Sys2Proof.Machine
end

section
/-! SUPPORT. The Station Controller, the settings, the timers and the time quality agree with the station state in
every state a step leads to (State.Consistent): what holds in every station state out of CONFIG, what each entry makes
of it, what keeps the agreement without a change of station state, and the statement about every step. -/

namespace Sys2Proof.Machine

/-! ## Out of CONFIG -/

/-- What agrees in every station state out of CONFIG, whatever that state is. -/
structure State.Started (s : State) : Prop where
  restarts : s.ctrl.listenRestarts ≤ 8
  drain : s.ctrl.drainCount ≤ 8
  echoRun : s.ctrl.echoRun ≤ 2
  clampedRun : s.ctrl.clampedRun ≤ 2
  frozen : s.settings.frozen = true
  signature : s.settings.signature = some s.settings.profile.signature
  profile : s.settings.profile.inRange = true
  number : s.own.val < s.settings.profile.slotCount
  receiver : s.line.receiverOn = true
  sampling : s.capture.untilSample.isSome = true
  untimed : s.time.quality = .noTime → s.time.correctionOffset = 0 ∧ s.time.holdCount = 0
  hold : s.time.holdCount ≤ 20
  noReset : s.pins.resetLow = false

theorem State.Consistent.started {s : State} (h : s.Consistent) (out : s.ctrl.station ≠ .config) : s.Started where
  restarts := h.restarts
  drain := h.drain
  echoRun := h.echoRun
  clampedRun := h.clampedRun
  frozen := h.frozen.trans (bne_iff_ne.mpr out)
  signature := by simpa [out] using h.signature
  profile := h.profile
  number := h.number out
  receiver := h.receiver.trans (bne_iff_ne.mpr out)
  sampling := h.sampling.trans (bne_iff_ne.mpr out)
  untimed := h.untimed
  hold := h.hold
  noReset := Bool.eq_false_of_not_eq_true fun hr => out (h.inReset hr).1

theorem StationState.Running.ne_config {st : StationState} (h : st.Running) : st ≠ .config := by
  rintro rfl
  simp [StationState.Running] at h

theorem TimeUnit.requalify_noTime (st : StationState) (t : TimeUnit) :
    (t.requalify st).quality = .noTime ↔ t.quality = .noTime := by
  have qualified : qualityBy st t.lastCorrection ≠ .noTime := by
    unfold qualityBy
    split <;> (try split) <;> (try split) <;> decide
  unfold TimeUnit.requalify
  by_cases h : t.quality = .noTime <;> simp [h, qualified]

theorem TimeUnit.requalify_quality (st : StationState) (t : TimeUnit) : (t.requalify st).quality = .noTime ∨
    (t.requalify st).quality = qualityBy st (t.requalify st).lastCorrection := by
  by_cases h : t.quality = .noTime <;> simp [TimeUnit.requalify, h]

theorem Transmitter.withdraw_ne_ordered (x : Transmitter) (o : TransmitOrder) : x.withdraw ≠ .ordered o := by
  cases x <;> simp [Transmitter.withdraw]

/-! ## Entries -/

/-- A change of station state out of CONFIG agrees if timers and runs are those of the new state. -/
theorem changeStation_consistent {st : StationState} {s : State} (h : s.Started) (out : st ≠ .config)
    (slotTimer : s.ctrl.slotTimer.isSome = (if st = .listen then s.time.quality != .noTime
      else st == .coldstart || st == .integrate || st == .active))
    (listenTimer : s.ctrl.listenTimer.isSome = (st == .listen))
    (contention : s.ctrl.contention.isSome = (st == .coldstart))
    (integration : s.ctrl.integration.isSome = (st == .integrate))
    (session : st = .active → s.ctrl.session.isSome = true)
    (leaving : s.ctrl.leavePending = true → st.Running)
    (departing : s.ctrl.departingOrder = true → st = .active ∧ s.ctrl.leavePending = true)
    (timed : st = .coldstart ∨ st = .integrate ∨ st = .active → s.time.quality ≠ .noTime) :
    (changeStation st s).Consistent where
  slotTimer := by
    have quality := TimeUnit.requalify_noTime st s.time
    simp only [changeStation_ctrl, State.holdsTime, changeStation_time, slotTimer]
    cases st <;> simp [bne, quality, Bool.beq_eq_decide_eq] at *
  listenTimer := by simpa using listenTimer
  contention := by simpa using contention
  integration := by simpa using integration
  restarts := by simpa using h.restarts
  drain := by simpa using h.drain
  echoRun := by simpa using h.echoRun
  clampedRun := by simpa using h.clampedRun
  session := by simpa using session
  leaving := by simpa [StationState.Running] using leaving
  departing := by simpa using departing
  frozen := by simpa [bne_iff_ne.mpr out] using h.frozen
  signature := by simpa [out] using h.signature
  profile := by simpa using h.profile
  number := fun _ => by simpa [State.own] using h.number
  receiver := by simpa [bne_iff_ne.mpr out] using h.receiver
  sampling := by simpa [bne_iff_ne.mpr out] using h.sampling
  order o := by simp [Transmitter.withdraw_ne_ordered]
  noTimeYet := by simp [out]
  timed := by simpa [TimeUnit.requalify_noTime] using timed
  untimed e := by
    rw [changeStation_time, TimeUnit.requalify_noTime] at e
    simpa [TimeUnit.requalify] using h.untimed e
  hold := by simpa [TimeUnit.requalify] using h.hold
  quality := by simpa using TimeUnit.requalify_quality st s.time
  inReset := by simp [h.noReset]

section Entries

variable {s : State}

theorem enterListen_consistent (h : s.Started) (slotTimer : s.ctrl.slotTimer.isSome = (s.time.quality != .noTime))
    (departing : s.ctrl.departingOrder = false) : (enterListen s).Consistent :=
  changeStation_consistent (st := .listen) ⟨Nat.zero_le 8, h.drain, h.echoRun, h.clampedRun, h.frozen, h.signature, h.profile, h.number,
    h.receiver, h.sampling, h.untimed, h.hold, h.noReset⟩ (by decide) slotTimer rfl rfl rfl
    (fun e => nomatch e) (fun _ => .inl rfl) (fun e => by simp [departing] at e) (fun e => by simp at e)

theorem retire_consistent {st : StationState} (h : s.Started) (dep : st = .departed ∨ st = .faulted) :
    (retire st s).Consistent := by
  have started : State.Started { s with
      ctrl := { s.ctrl with
        listenTimer := none, contention := none, integration := none, leavePending := false, drainCount := 0
        departingOrder := false, echoRun := 0, clampedRun := 0, slotTimer := none }
      time := { s.time with deviations := [] }
      members := s.members.emptied
      capture := { s.capture with pendingLoss := none }
      journal := s.journal.finalRelease } :=
    ⟨h.restarts, Nat.zero_le 8, Nat.zero_le 2, Nat.zero_le 2, h.frozen, h.signature, h.profile, h.number, h.receiver,
      h.sampling, h.untimed, h.hold, h.noReset⟩
  refine changeStation_consistent started ?_ ?_ ?_ ?_ ?_ ?_ ?_ ?_ ?_ <;> rcases dep with rfl | rfl <;> simp

theorem enterFault_consistent (h : s.Started) : (enterFault s).Consistent := retire_consistent h (.inr rfl)

theorem enterDeparted_consistent (h : s.Started) : (enterDeparted s).Consistent :=
  retire_consistent ⟨h.restarts, h.drain, h.echoRun, h.clampedRun, h.frozen, h.signature, h.profile, h.number, h.receiver,
      h.sampling, h.untimed, h.hold, h.noReset⟩ (.inl rfl)

theorem enterIntegrate_consistent (f : Frame) (localAt : Nat) (h : s.Started)
    (departing : s.ctrl.departingOrder = false) : (enterIntegrate f localAt s).Consistent := by
  unfold enterIntegrate
  exact changeStation_consistent
    ⟨h.restarts, h.drain, h.echoRun, h.clampedRun, h.frozen, h.signature, h.profile, h.number, h.receiver, h.sampling,
      fun e => by simp [restartSlotTimer, TimeUnit.replace] at e, Nat.zero_le 20, h.noReset⟩
    (by decide) rfl rfl rfl rfl (fun e => nomatch e) (fun _ => .inr (.inr (.inl rfl)))
    (fun e => by simp [restartSlotTimer, departing] at e) (fun _ => by simp [restartSlotTimer, TimeUnit.replace])

theorem placeOrder_consistent (o : TransmitOrder) (h : s.Consistent)
    (sends : s.ctrl.station = .coldstart ∨ s.ctrl.station = .active) : (placeOrder o s).Consistent :=
  ⟨h.slotTimer, h.listenTimer, h.contention, h.integration, h.restarts, h.drain, h.echoRun, h.clampedRun, h.session,
    h.leaving, h.departing, h.frozen, h.signature, h.profile, h.number, h.receiver, h.sampling, fun _ _ => sends,
    h.noTimeYet, h.timed, h.untimed, h.hold, h.quality, h.inReset⟩

theorem enterColdstart_consistent (h : s.Started) (departing : s.ctrl.departingOrder = false)
    (integration : s.ctrl.integration = none) : (enterColdstart s).Consistent := by
  unfold enterColdstart
  refine placeOrder_consistent _ (changeStation_consistent ?_ (by decide) rfl rfl rfl ?_ (fun e => nomatch e)
    (fun _ => .inr (.inl rfl)) ?_ fun _ => ?_) (.inl (by simp))
  · exact ⟨h.restarts, h.drain, h.echoRun, h.clampedRun, h.frozen, h.signature, h.profile, h.number, h.receiver,
      h.sampling, fun e => by simp [restartSlotTimer, TimeUnit.replace] at e, Nat.zero_le 20, h.noReset⟩
  · simp [restartSlotTimer, integration]
  · simp [restartSlotTimer, departing]
  · simp [restartSlotTimer, TimeUnit.replace]

end Entries

/-! ## Acts without a change of station state -/

/-- An act that leaves the controller, the settings, the Time Unit, the sampling and the port's transaction. -/
theorem State.Consistent.keep {s t : State} (h : s.Consistent) (ctrl : t.ctrl = s.ctrl) (settings : t.settings = s.settings)
    (time : t.time = s.time) (receiver : t.line.receiverOn = s.line.receiverOn)
    (order : ∀ o, t.line.transmitter = .ordered o → s.line.transmitter = .ordered o)
    (sampling : t.capture.untilSample.isSome = s.capture.untilSample.isSome) (pins : t.pins.resetLow = s.pins.resetLow)
    (transaction : t.port.transaction = s.port.transaction) : t.Consistent := by
  obtain ⟨settings', line, ctrl', time', members, capture, queue, receipts, journal, port, pins', pending⟩ := t
  subst ctrl settings time
  exact ⟨h.slotTimer, h.listenTimer, h.contention, h.integration, h.restarts, h.drain, h.echoRun, h.clampedRun, h.session,
    h.leaving, h.departing, h.frozen, h.signature, h.profile, h.number, receiver.trans h.receiver,
    sampling.trans h.sampling, fun o ho => h.order o (order o ho), h.noTimeYet, h.timed, h.untimed, h.hold, h.quality,
    fun hr => (h.inReset (pins ▸ hr)).imp_right transaction.trans⟩

/-- Out of ACTIVE no departing order is held (R35). -/
theorem State.Consistent.not_departing {s : State} (h : s.Consistent) (hs : s.ctrl.station ≠ .active) :
    s.ctrl.departingOrder = false := Bool.eq_false_of_not_eq_true fun e => hs (h.departing e).1

theorem enterActive_consistent {s : State} (i : Bool) (b : SlotStart) (h : s.Consistent)
    (hs : s.ctrl.station = .coldstart ∨ s.ctrl.station = .integrate) : (enterActive i b s).Consistent := by
  have out : s.ctrl.station ≠ .config := by rcases hs with hs | hs <;> simp [hs]
  have departing : s.ctrl.departingOrder = false := h.not_departing (by rcases hs with hs | hs <;> simp [hs])
  have slotTimer := h.slotTimer
  have listenTimer := h.listenTimer
  have started := h.started out
  have timed := h.timed (hs.imp_right .inl)
  unfold enterActive
  refine State.Consistent.keep ?changed (membershipEnterActive_keeps _ _ _).2.2.1 (by simp) (by simp) (by simp)
    (fun o ho => by simpa using ho) (by simp) (by simp) (membershipEnterActive_grows _ _ _).transaction
  refine changeStation_consistent (st := .active) ?_ (by decide) ?_ ?_ rfl rfl (fun _ => rfl)
    (fun _ => .inr (.inr (.inr rfl))) (fun e => by simp [departing] at e) fun _ => timed
  · exact ⟨started.restarts, started.drain, Nat.zero_le 2, Nat.zero_le 2, started.frozen, started.signature,
      started.profile, started.number, started.receiver, started.sampling, started.untimed, started.hold,
      started.noReset⟩
  · rcases hs with hs | hs <;> simpa [State.holdsTime, hs] using slotTimer
  · rcases hs with hs | hs <;> rw [hs] at listenTimer <;> exact listenTimer

/-- An update of the controller that keeps the station state and starts or stops no timer. -/
theorem State.Consistent.setCtrl {s : State} (h : s.Consistent) {c : Controller} (station : c.station = s.ctrl.station)
    (slotTimer : c.slotTimer.isSome = s.ctrl.slotTimer.isSome)
    (listenTimer : c.listenTimer.isSome = s.ctrl.listenTimer.isSome) (contention : c.contention = s.ctrl.contention)
    (integration : c.integration.isSome = s.ctrl.integration.isSome) (session : c.session = s.ctrl.session)
    (restarts : c.listenRestarts ≤ 8) (drain : c.drainCount ≤ 8) (echoRun : c.echoRun ≤ 2) (clampedRun : c.clampedRun ≤ 2)
    (leaving : c.leavePending = true → s.ctrl.station.Running)
    (departing : c.departingOrder = true → s.ctrl.station = .active ∧ c.leavePending = true) : (s.setCtrl c).Consistent := by
  obtain ⟨settings, line, ctrl, time, members, capture, queue, receipts, journal, port, pins, pending⟩ := s
  obtain ⟨st, lt, lr, co, it, se, lu, lp, dc, dd, er, cr, sl⟩ := c
  dsimp only [State.setCtrl] at *
  subst station
  exact ⟨slotTimer.trans h.slotTimer, listenTimer.trans h.listenTimer, contention ▸ h.contention,
    integration.trans h.integration, restarts, drain, echoRun, clampedRun, session ▸ h.session, leaving, departing,
    h.frozen, h.signature, h.profile, h.number, h.receiver, h.sampling, h.order, h.noTimeYet, h.timed, h.untimed, h.hold,
    h.quality, h.inReset⟩

section Acts

variable {s : State} (h : s.Consistent)
include h

theorem lineActivity_consistent (hs : s.ctrl.station = .listen) : (lineActivity s).Consistent := by
  refine lineActivity_ind s (fun few => ?_) h
  exact h.setCtrl rfl rfl (by simp [h.listenTimer, hs]) rfl rfl rfl few h.drain h.echoRun h.clampedRun h.leaving h.departing

/-- A station that holds time and reintegrates, or ends a contention or an integration, has its slot timer running. -/
theorem State.Consistent.slotTimer_of_timed
    (hs : s.ctrl.station = .coldstart ∨ s.ctrl.station = .integrate ∨ s.ctrl.station = .active) :
    s.ctrl.slotTimer.isSome = (s.time.quality != .noTime) := by
  rw [h.slotTimer, bne_iff_ne.mpr (h.timed hs)]
  rcases hs with hs | hs | hs <;> simp [State.holdsTime, hs]

theorem relisten_consistent (hs : s.ctrl.station = .coldstart ∨ s.ctrl.station = .integrate) :
    (enterListen s).Consistent :=
  enterListen_consistent (h.started (by rcases hs with hs | hs <;> simp [hs])) (h.slotTimer_of_timed (hs.imp_right .inl))
    (h.not_departing (by rcases hs with hs | hs <;> simp [hs]))

theorem reintegrate_consistent (hs : s.ctrl.station = .active) : (reintegrate s).Consistent :=
  have out : s.ctrl.station ≠ .config := by simp [hs]
  enterListen_consistent ⟨h.restarts, h.drain, Nat.zero_le 2, Nat.zero_le 2, (h.started out).frozen,
    (h.started out).signature, h.profile, h.number out, (h.started out).receiver, (h.started out).sampling, h.untimed,
    h.hold, (h.started out).noReset⟩ (h.slotTimer_of_timed (.inr (.inr hs))) rfl

theorem controllerTakeFrame_consistent (f : Frame) (localAt : Nat) : (controllerTakeFrame f localAt s).Consistent := by
  refine controllerTakeFrame_ind f localAt s (fun running _ => enterFault_consistent (h.started running.ne_config))
    (fun hs _ => enterIntegrate_consistent f localAt (h.started ?_) (h.not_departing ?_))
    (lineActivity_consistent h) (fun _ _ _ hi => ?_) h
  · rcases hs with hs | hs <;> simp [hs]
  · rcases hs with hs | hs <;> simp [hs]
  · exact h.setCtrl rfl rfl rfl rfl (by simp [hi]) rfl h.restarts h.drain h.echoRun h.clampedRun h.leaving h.departing

theorem controllerTakeEcho_consistent (kind : FrameKind) (good : Bool) : (controllerTakeEcho kind good s).Consistent :=
  controllerTakeEcho_ind kind good s (fun hs => relisten_consistent h (.inl hs))
    (fun _ le _ => h.setCtrl rfl rfl rfl rfl rfl rfl h.restarts h.drain le h.clampedRun h.leaving h.departing)
    (reintegrate_consistent h) h

theorem drainRoundEnd_consistent : (drainRoundEnd s).Consistent := by
  refine drainRoundEnd_ind s
    (fun n le _ _ => h.setCtrl rfl rfl rfl rfl rfl rfl h.restarts le h.echoRun h.clampedRun h.leaving h.departing)
    (fun n le pending hs => h.setCtrl rfl rfl rfl rfl rfl rfl h.restarts le h.echoRun h.clampedRun h.leaving
      fun _ => ⟨hs, pending⟩)
    (fun n le running => enterDeparted_consistent ?_) h
  have started := h.started running.ne_config
  exact ⟨started.restarts, le, started.echoRun, started.clampedRun, started.frozen, started.signature, started.profile,
    started.number, started.receiver, started.sampling, started.untimed, started.hold, started.noReset⟩

theorem controllerBoundary_consistent (b : SlotStart) : (controllerBoundary b s).Consistent :=
  controllerBoundary_ind b s
    (controllerEntry_ind b s (fun i hs => enterActive_consistent i b h hs) (fun hs => relisten_consistent h (.inr hs)) h)
    (fun _ hu => drainRoundEnd_consistent hu) (fun o _ hu hs => placeOrder_consistent o hu (.inr hs))

theorem takeCorrectionReport_consistent (r : CorrectionReport) : (takeCorrectionReport r s).Consistent :=
  takeCorrectionReport_ind r s
    (fun _ le _ => h.setCtrl rfl rfl rfl rfl rfl rfl h.restarts h.drain h.echoRun le h.leaving h.departing)
    (reintegrate_consistent h) h

/-- A record handed over leaves the sampling. -/
theorem handOver_consistent (d : Draft) : (handOver d s).Consistent := by
  refine h.keep (by simp) (by simp) (by simp) (by simp) (fun o ho => by simpa using ho) ?_ (by simp)
    (handOver_grows d s).transaction
  exact handOver_ind (P := fun t => t.capture.untilSample.isSome = s.capture.untilSample.isSome) d s
    (by simp [loseRecord]) fun _ => by simp

theorem takeSample_consistent (levels : BitVec 8) (sampling : s.capture.untilSample.isSome = true) :
    (takeSample levels s).Consistent :=
  takeSample_ind levels s (h.keep rfl rfl rfl rfl (fun _ ho => ho) sampling.symm rfl rfl)
    fun d _ hu _ _ _ => handOver_consistent hu d

/-- The removal of records writes a pending loss, and leaves the sampling. -/
theorem removeWhile_consistent (test : QueuedRecord → Bool) : (removeWhile test s).Consistent := by
  refine h.keep (by simp) (by simp) (by simp) (by simp) (fun o ho => by simpa using ho) ?_ (by simp)
    (removeWhile_grows test s).transaction
  exact removeWhile_ind (P := fun t => t.capture.untilSample.isSome = s.capture.untilSample.isSome) test s rfl
    fun _ _ _ => by simp

theorem passTime_consistent (dt : Nat) : (passTime dt s).Consistent where
  slotTimer := h.slotTimer
  listenTimer := by simpa [passTime] using h.listenTimer
  contention := h.contention
  integration := h.integration
  restarts := h.restarts
  drain := h.drain
  echoRun := h.echoRun
  clampedRun := h.clampedRun
  session := h.session
  leaving := h.leaving
  departing := h.departing
  frozen := h.frozen
  signature := h.signature
  profile := h.profile
  number := h.number
  receiver := h.receiver
  sampling := by simpa [passTime] using h.sampling
  order o ho := h.order o (by cases ht : s.line.transmitter <;> simp_all [passTime, Transmitter.pass])
  noTimeYet := h.noTimeYet
  timed := h.timed
  untimed e := by
    obtain ⟨offset, hold⟩ := h.untimed e
    simp [passTime, TimeUnit.pass, offset, hold]
  hold := (Nat.sub_le _ _).trans h.hold
  quality := h.quality
  inReset := h.inReset

/-- An update of the Time Unit that gives and takes no time. -/
theorem State.Consistent.setTime {x : TimeUnit} (noTime : x.quality = .noTime ↔ s.time.quality = .noTime)
    (untimed : x.quality = .noTime → x.correctionOffset = 0 ∧ x.holdCount = 0) (hold : x.holdCount ≤ 20)
    (quality : x.quality = .noTime ∨ x.quality = qualityBy s.ctrl.station x.lastCorrection) : (s.setTime x).Consistent where
  slotTimer := by
    refine h.slotTimer.trans ?_
    have same : (x.quality != .noTime) = (s.time.quality != .noTime) := by rw [Bool.eq_iff_iff]; simp [noTime]
    simp only [State.holdsTime, State.setTime_ctrl, State.setTime_time, same]
  listenTimer := h.listenTimer
  contention := h.contention
  integration := h.integration
  restarts := h.restarts
  drain := h.drain
  echoRun := h.echoRun
  clampedRun := h.clampedRun
  session := h.session
  leaving := h.leaving
  departing := h.departing
  frozen := h.frozen
  signature := h.signature
  profile := h.profile
  number := h.number
  receiver := h.receiver
  sampling := h.sampling
  order := h.order
  noTimeYet hs := noTime.mpr (h.noTimeYet hs)
  timed hs := mt noTime.mp (h.timed hs)
  untimed := untimed
  hold := hold
  quality := quality
  inReset := h.inReset

end Acts

/-! ## Corrections -/

theorem boundedBy_natAbs_le (limit : Nat) (raw : Int) : (boundedBy limit raw).natAbs ≤ limit := by
  unfold boundedBy
  split <;> [skip; split] <;> omega

/-- The correction applied at a round end is bounded by the limit (R48). -/
theorem correctionRecord_applied_le (limit : Nat) (ended : Round) (ds : List Int) :
    ((correctionRecord limit ended ds).applied.getD 0).natAbs ≤ limit := by
  unfold correctionRecord
  split
  · exact Nat.zero_le _
  · exact boundedBy_natAbs_le _ _

theorem TimeUnit.applyCorrection_hold_le (t : TimeUnit) (c : Int) :
    (t.applyCorrection c).holdCount ≤ max t.holdCount c.natAbs := by
  unfold TimeUnit.applyCorrection
  split <;> [skip; split] <;> simp

theorem TimeUnit.applyCorrection_quality (t : TimeUnit) (c : Int) : (t.applyCorrection c).quality = t.quality := by
  unfold TimeUnit.applyCorrection
  split <;> [skip; split] <;> rfl

theorem TimeUnit.correct_quality (t : TimeUnit) (limit : Nat) (ended : Round) :
    (t.correct limit ended).quality = t.quality := t.applyCorrection_quality _

theorem TimeUnit.correct_hold_le (t : TimeUnit) (limit : Nat) (ended : Round) :
    (t.correct limit ended).holdCount ≤ max t.holdCount limit :=
  (t.applyCorrection_hold_le _).trans (max_le_max le_rfl (correctionRecord_applied_le _ _ _))

theorem Profile.inRange_correctionLimit {p : Profile} (h : p.inRange = true) : p.correctionLimit ≤ 20 := by
  simp only [Profile.inRange, Bool.and_eq_true, decide_eq_true_eq] at h
  omega

theorem timeRoundEnd_consistent {s : State} (h : s.Consistent) (b : SlotStart) : (timeRoundEnd b s).1.Consistent := by
  refine timeRoundEnd_ind b s (h.setTime .rfl h.untimed h.hold h.quality) (fun runs => ?_) h
  have timed : s.time.quality ≠ .noTime := fun e => by
    have holds := h.slotTimer.symm.trans runs
    cases hs : s.ctrl.station <;> simp_all [State.holdsTime, h.timed]
  have corrected := fun x => mt (TimeUnit.requalify_noTime s.ctrl.station x).mp
  refine State.Consistent.keep (h.setTime ?_ (fun e => ?_) ?_ (TimeUnit.requalify_quality _ _)) (by simp) (by simp)
    (holdPersistent_keeps _).2.2.2.1 (by simp) (fun o ho => by simpa using ho) (by simp) (by simp)
    (holdPersistent_grows _).transaction
  · rw [TimeUnit.requalify_noTime, TimeUnit.correct_quality]
  · rw [TimeUnit.requalify_noTime, TimeUnit.correct_quality] at e
    exact absurd e timed
  · have limit := Profile.inRange_correctionLimit h.profile
    exact (TimeUnit.correct_hold_le _ _ _).trans (max_le h.hold limit)

/-! ## Host commands -/

/-- In CONFIG the settings may be written: no other block reads them yet (R172, R175). -/
theorem State.Consistent.setSettings {s : State} (h : s.Consistent) (hs : s.ctrl.station = .config) {x : Settings}
    (frozen : x.frozen = s.settings.frozen) (signature : x.signature = s.settings.signature)
    (inRange : x.profile.inRange = true) : (s.setSettings x).Consistent where
  slotTimer := h.slotTimer
  listenTimer := h.listenTimer
  contention := h.contention
  integration := h.integration
  restarts := h.restarts
  drain := h.drain
  echoRun := h.echoRun
  clampedRun := h.clampedRun
  session := h.session
  leaving := h.leaving
  departing := h.departing
  frozen := frozen.trans h.frozen
  signature := by
    refine (signature.trans h.signature).trans ?_
    rw [if_pos hs, if_pos (by simpa using hs)]
  profile := inRange
  number out := absurd hs out
  receiver := h.receiver
  sampling := h.sampling
  order := h.order
  noTimeYet := h.noTimeYet
  timed := h.timed
  untimed := h.untimed
  hold := h.hold
  quality := h.quality
  inReset := h.inReset

theorem holdPersistent_port_congr {s t : State} (port : s.port = t.port) (station : s.ctrl.station = t.ctrl.station)
    (quality : s.time.quality = t.time.quality) : (holdPersistent s).port = (holdPersistent t).port := by
  have suspect : s.timeSuspect = t.timeSuspect := by simp only [State.timeSuspect, station, quality]
  have duplicated : s.duplicated = t.duplicated := by simp only [State.duplicated, station]
  simp only [holdPersistent, raiseIf, raise, suspect, duplicated]
  split <;> split <;> simp [port]

/-- The slot timer may be restarted before the entry to LISTEN as well as after it: the entry reads it nowhere and
leaves common time. -/
theorem restartSlotTimer_enterListen (s : State) :
    restartSlotTimer (enterListen s) = enterListen (restartSlotTimer s) := by
  apply State.ext_blocks
  case ctrl =>
    simp [restartSlotTimer, enterListen, State.listenDuration, State.commonTime, State.roundLength, TimeUnit.count,
      TimeUnit.requalify, State.own]
  case port =>
    rw [(restartSlotTimer_keeps _).2.2.2.2.2.2.2.2.1]
    exact holdPersistent_port_congr rfl rfl rfl
  all_goals simp [restartSlotTimer, enterListen]

/-- No host command moves a pin. -/
theorem command_pins (code : Byte) (args : List Byte) (s : State) : (commandOf code args s).2.pins = s.pins :=
  commandOf_state_ind (P := fun t => t.pins = s.pins) s rfl (by simp) (fun _ _ => rfl) (fun _ _ _ => by simp) (fun _ => rfl)
    rfl (fun _ _ _ => rfl) (fun _ _ => rfl) (fun _ _ => by simp [State.started]) (fun _ => rfl) (fun _ => by simp)
    (fun _ _ => by simp [rejoinBlocks]) (fun _ _ => by simp [rejoinBlocks]) args

theorem State.started_started {s : State} (h : s.Consistent) (number : s.own.val < s.settings.profile.slotCount)
    (noReset : s.pins.resetLow = false) : s.started.Started :=
  ⟨h.restarts, h.drain, h.echoRun, h.clampedRun, rfl, rfl, h.profile, number, rfl, rfl, h.untimed, h.hold, noReset⟩

theorem command_consistent {s : State} (h : s.Consistent) (noReset : s.pins.resetLow = false) (code : Byte)
    (args : List Byte) : (commandOf code args s).2.Consistent := by
  have same (t : State) (ctrl : t.ctrl = s.ctrl) (settings : t.settings = s.settings) (time : t.time = s.time)
      (line : t.line.receiverOn = s.line.receiverOn ∧ t.line.transmitter = s.line.transmitter)
      (capture : t.capture = s.capture) (pins : t.pins = s.pins)
      (transaction : t.port.transaction = s.port.transaction) : t.Consistent :=
    h.keep ctrl settings time line.1 (by simp [line.2]) (by rw [capture]) (by rw [pins]) transaction
  refine commandOf_state_ind s h ?attention (fun _ _ => ?pinned) (fun tag _ _ => ?inject) (fun _ => ?mask) ?clear
    (fun p hs inRange => ?profile) (fun x hs => ?inputs) (fun hs number => ?start) (fun hs => ?leave)
    (fun running => ?departs) (fun hs untimed => ?rejoinUntimed) (fun hs timed => ?rejoinTimed) args
  case attention =>
    exact same _ (by simp) (by simp) (by simp) (by simp) (by simp) (by simp) (holdPersistent_grows _).transaction
  case pinned => exact same _ rfl rfl rfl ⟨rfl, rfl⟩ rfl rfl rfl
  case inject =>
    exact same _ (by simp) (by simp) (by simp) (by simp) (by simp) (by simp) (enqueue_grows _ _).transaction
  case mask => exact same _ rfl rfl rfl ⟨rfl, rfl⟩ rfl rfl rfl
  case clear => exact same _ rfl rfl rfl ⟨rfl, rfl⟩ rfl rfl rfl
  case profile => exact h.setSettings hs rfl rfl inRange
  case inputs => exact h.setSettings hs rfl rfl h.profile
  case start =>
    refine enterListen_consistent (State.started_started h number noReset) ?_ (h.not_departing (by simp [hs]))
    simpa [State.holdsTime, hs, State.started, h.noTimeYet hs] using h.slotTimer
  case leave =>
    exact h.setCtrl rfl rfl rfl rfl rfl rfl h.restarts (Nat.zero_le 8) h.echoRun h.clampedRun
      (fun _ => .inr (.inr (.inr hs))) (fun e => nomatch e)
  case departs => exact enterDeparted_consistent (h.started running.ne_config)
  all_goals
    have started := h.started (by simp [hs])
    have rejoined : (rejoinBlocks s).Started := ⟨started.restarts, started.drain, started.echoRun, started.clampedRun,
      started.frozen, started.signature, started.profile, started.number, started.receiver, started.sampling,
      started.untimed, started.hold, started.noReset⟩
    have stopped : s.ctrl.slotTimer.isSome = false := by rw [h.slotTimer]; simp [State.holdsTime, hs]
    have departing : s.ctrl.departingOrder = false := h.not_departing (by simp [hs])
  case rejoinUntimed =>
    exact enterListen_consistent rejoined (by simpa [rejoinBlocks, untimed] using stopped) departing
  case rejoinTimed =>
    rw [restartSlotTimer_enterListen]
    refine enterListen_consistent ?_ (bne_iff_ne.mpr timed).symm departing
    exact ⟨rejoined.restarts, rejoined.drain, rejoined.echoRun, rejoined.clampedRun, rejoined.frozen, rejoined.signature,
      rejoined.profile, rejoined.number, rejoined.receiver, rejoined.sampling, rejoined.untimed, rejoined.hold,
      rejoined.noReset⟩

/-! ## Every step -/

/-- A transaction of the port moves on while no reset is under way (R146). -/
theorem State.Consistent.setPort {s : State} (h : s.Consistent) {x : HostPort}
    (noReset : s.pins.resetLow = false ∨ x.transaction = s.port.transaction) : (s.setPort x).Consistent where
  slotTimer := h.slotTimer
  listenTimer := h.listenTimer
  contention := h.contention
  integration := h.integration
  restarts := h.restarts
  drain := h.drain
  echoRun := h.echoRun
  clampedRun := h.clampedRun
  session := h.session
  leaving := h.leaving
  departing := h.departing
  frozen := h.frozen
  signature := h.signature
  profile := h.profile
  number := h.number
  receiver := h.receiver
  sampling := h.sampling
  order := h.order
  noTimeYet := h.noTimeYet
  timed := h.timed
  untimed := h.untimed
  hold := h.hold
  quality := h.quality
  inReset hr := noReset.elim (fun e => by simp [e] at hr) fun e => (h.inReset hr).imp_right e.trans

theorem State.Consistent.noReset {s : State} (h : s.Consistent) (busy : s.port.transaction ≠ .idle) :
    s.pins.resetLow = false := Bool.eq_false_of_not_eq_true fun hr => busy (h.inReset hr).2

theorem inReset_consistent (s : State) : s.inReset.Consistent := by
  constructor <;> simp [State.inReset, State.reset, Controller.reset, Settings.reset, LineInterface.reset,
    TimeUnit.reset, CaptureUnit.reset, State.holdsTime, Profile.default, Profile.inRange, HostPort.reset]

theorem endReset_consistent {s : State} (h : s.Consistent) (straps : BitVec 4) (low : s.pins.resetLow = true) :
    (endReset straps s).Consistent := by
  have config := (h.inReset low).1
  have ended : (s.setPins { s.pins with resetLow := false }).Consistent :=
    ⟨h.slotTimer, h.listenTimer, h.contention, h.integration, h.restarts, h.drain, h.echoRun, h.clampedRun, h.session,
      h.leaving, h.departing, h.frozen, h.signature, h.profile, h.number, h.receiver, h.sampling, h.order, h.noTimeYet,
      h.timed, h.untimed, h.hold, h.quality, fun e => nomatch e⟩
  exact (ended.setSettings (x := { s.settings with stationNumber := straps.toFin }) config rfl rfl h.profile).setPort
    (.inl rfl)

theorem consistent_kept : Kept State.Consistent where
  inReset s _ := inReset_consistent s
  endReset straps _ h low := endReset_consistent h straps low
  select _ _ h := h.keep rfl rfl rfl rfl (fun _ ho => ho) rfl rfl rfl
  begin _ h _ noReset := h.setPort (.inl noReset)
  endTransaction s h busy := (h.setPort (.inl (h.noReset busy))).keep rfl rfl rfl rfl (fun _ ho => ho) rfl rfl rfl
  timeout s h busy :=
    (h.setPort (x := (timeoutTransaction s).port)
      (.inl (h.noReset (by rcases busy with e | e <;> simp [e])))).keep rfl rfl rfl rfl (fun _ ho => ho) rfl rfl rfl
  answer code args s h command _ :=
    have noReset := h.noReset (by simp [command])
    (command_consistent h noReset code args).setPort (.inl ((command_pins code args s).symm ▸ noReset))
  bit _ _ _ h _ _ := h.setPort (.inr rfl)
  receive _ _ h _ := h.setPort (.inr rfl)
  send _ h _ := h.setPort (.inr rfl)
  pass dt _ h := passTime_consistent h dt
  receiver _ _ h _ := h.keep rfl rfl rfl rfl (fun _ ho => ho) rfl rfl rfl
  valid _ h := h.keep rfl rfl rfl rfl (fun _ ho => ho) rfl rfl rfl
  garbled _ h := h.keep rfl rfl rfl rfl (fun _ ho => ho) rfl rfl rfl
  foreign _ h := h.keep rfl rfl rfl rfl (fun _ ho => ho) rfl rfl rfl
  offSlot _ h := h.keep rfl rfl rfl rfl (fun _ ho => ho) rfl rfl rfl
  takeGarbled s h := controllerTakeGarbled_ind s (lineActivity_consistent h) (fun hs => relisten_consistent h (.inl hs)) h
  takeForeign s h := controllerTakeForeign_ind s (lineActivity_consistent h) h
  controllerFrame f localAt _ h := controllerTakeFrame_consistent h f localAt
  timeFrame f sof s h := timeTakeFrame_ind f sof s (fun _ => h.setTime .rfl h.untimed h.hold h.quality) h
  membershipFrame f s h := h.keep (by simp) (by simp) (by simp) (by simp) (by simp) (by simp) (by simp)
    (membershipTakeFrame_grows f s).transaction
  outboundFrame f s h := outboundTakeFrame_ind f s (fun _ _ => h.keep rfl rfl rfl rfl (fun _ ho => ho) rfl rfl rfl)
    (fun test _ _ => removeWhile_consistent (s := s.ackTaken f) (h.keep rfl rfl rfl rfl (fun _ ho => ho) rfl rfl rfl) test) h
  receiptFrame i f s h _ := h.keep (by simp) (by simp) (by simp) (by simp) (by simp) (by simp) (by simp)
    (receiptTakeFrame_grows i f s).transaction
  startSending _ _ _ h _ := h.keep rfl rfl rfl rfl (fun _ e => nomatch e) rfl rfl rfl
  sofMark s o _ h _ :=
    have sent : (s.contentSent o).Consistent := h.keep rfl rfl rfl rfl (fun _ e => nomatch e) rfl rfl rfl
    sendContent_ind o s sent fun hs => enterDeparted_consistent (sent.started (by simp [State.contentSent, hs]))
  sent _ _ _ h _ := h.keep rfl rfl rfl rfl (fun _ e => nomatch e) rfl rfl rfl
  echo _ _ h _ := h.keep rfl rfl rfl rfl (fun _ ho => ho) rfl rfl rfl
  takeEcho kind good _ h := controllerTakeEcho_consistent h kind good
  nextSlot s b c h hb := h.setCtrl rfl (by simp [hb]) rfl rfl rfl rfl h.restarts h.drain h.echoRun h.clampedRun h.leaving
    h.departing
  controllerAct b _ h := controllerBoundary_consistent h b
  timeAct b _ h := timeRoundEnd_consistent h b
  membershipAct b s h := h.keep (by simp) (by simp) (by simp) (by simp) (by simp) (by simp) (by simp)
    (membershipRoundEnd_grows b s).transaction
  outboundAct s h := outboundRoundEnd_ind s (fun test _ => removeWhile_consistent h test) h
  journalAct s h := journalBoundary_ind s (fun _ => h.keep rfl rfl rfl rfl (fun _ ho => ho) rfl rfl rfl) h
  correctionReport r _ h := takeCorrectionReport_consistent h r
  viewReport s h := takeViewReport_ind s (reintegrate_consistent h) h
  coldstart s h hs := enterColdstart_consistent (h.started (by simp [hs])) (h.not_departing (by simp [hs]))
    (Option.not_isSome_iff_eq_none.mp (by simp [h.integration, hs]))
  sample levels _ h sampling := takeSample_consistent h levels sampling

/-- Settles O56: each of the two predicates is kept by every shared operation on its own. -/
theorem everyStepKeepsStation : Obligations.EveryStepKeepsStation := fun _ _ consistent held hstep =>
  ⟨consistent_kept.step (fun _ _ h => h.keep rfl rfl rfl rfl (fun _ ho => ho) rfl rfl rfl) consistent hstep,
    causesHeld_kept.step (fun _ _ h => ⟨h.suspect, h.duplicate⟩) held hstep⟩

end Sys2Proof.Machine
end

section
/-! SUPPORT. The Membership Table holds no peer outside ACTIVE and no heard mark outside ACTIVE and INTEGRATE
(State.TableKept), and no block holds anything under the own number (State.OwnUnused), in every state a step leads to. -/

namespace Sys2Proof.Machine

/-! ## The Membership Table -/

theorem State.TableKept.keep {s t : State} (h : s.TableKept) (station : t.ctrl.station = s.ctrl.station)
    (members : t.members = s.members) : t.TableKept := by
  constructor
  · rw [station, members]; exact h.empty
  · rw [station, members]; exact h.unheard
  · rw [members]; exact h.grace
  · rw [members]; exact h.agree
  · rw [members]; exact h.disagree

theorem State.TableKept.of_emptied {t : State} {m : Membership} (members : t.members = m.emptied) : t.TableKept where
  empty _ n := by simp [members, emptied_peer, PeerEntry.emptied, PeerEntry.isEmpty]
  unheard _ _ n := by simp [members, emptied_peer, PeerEntry.emptied]
  grace := by simp [members, Membership.emptied]
  agree := by simp [members, Membership.emptied]
  disagree := by simp [members, Membership.emptied]

/-- In ACTIVE any peers may be held. -/
theorem State.TableKept.of_active {t : State} (active : t.ctrl.station = .active) (grace : t.members.grace ≤ 3)
    (agree : t.members.agree ≤ 255) (disagree : t.members.disagree ≤ 255) : t.TableKept :=
  ⟨fun h => absurd active h, fun h => absurd active h, grace, agree, disagree⟩

section Table

variable {s : State}

theorem enterListen_tableKept (s : State) : (enterListen s).TableKept := .of_emptied (by simp [enterListen]; rfl)

theorem enterFault_tableKept (s : State) : (enterFault s).TableKept := .of_emptied (by simp [enterFault, retire]; rfl)

theorem enterDeparted_tableKept (s : State) : (enterDeparted s).TableKept :=
  .of_emptied (by simp [enterDeparted, retire]; rfl)

theorem enterActive_tableKept (i : Bool) (b : SlotStart) (s : State) : (enterActive i b s).TableKept := by
  have entered := enterActive_spec i b s
  obtain ⟨grace, agree, disagree, -⟩ := entered.table
  exact .of_active (by rw [entered.ctrl]) grace.le (agree.trans_le (Nat.zero_le _)) (disagree.trans_le (Nat.zero_le _))

theorem Membership.hear_counts (m : Membership) (own : StationNo) (f : Frame) : (m.hear own f).grace = m.grace ∧
    ((m.hear own f).agree = m.agree ∨ (m.hear own f).agree ≤ 255) ∧
    ((m.hear own f).disagree = m.disagree ∨ (m.hear own f).disagree ≤ 255) := by
  have le (n : Nat) : countUp255 n ≤ 255 := Nat.min_le_right _ _
  unfold Membership.hear Membership.checkView
  split
  · exact ⟨rfl, .inl rfl, .inr (le _)⟩
  · exact ⟨rfl, .inr (le _), .inl rfl⟩

variable (h : s.TableKept)
include h

/-- From a state that holds no peer the entries to COLDSTART and INTEGRATE keep the table. -/
theorem State.TableKept.into_idle {t : State} (idle : s.ctrl.station = .listen ∨ s.ctrl.station = .coldstart)
    (members : t.members = s.members) : t.TableKept := by
  have ⟨active, integrate⟩ : s.ctrl.station ≠ .active ∧ s.ctrl.station ≠ .integrate := by
    rcases idle with e | e <;> simp [e]
  exact ⟨fun _ n => members ▸ h.empty active n, fun _ _ n => members ▸ h.unheard active integrate n, members ▸ h.grace,
    members ▸ h.agree, members ▸ h.disagree⟩

theorem lineActivity_tableKept : (lineActivity s).TableKept := lineActivity_ind s (fun _ => h.keep rfl rfl) h

theorem controllerBoundary_tableKept (b : SlotStart) : (controllerBoundary b s).TableKept :=
  controllerBoundary_ind b s
    (controllerEntry_ind b s (fun i _ => enterActive_tableKept i b s) (fun _ => enterListen_tableKept s) h)
    (fun u hu => drainRoundEnd_ind u (fun _ _ _ _ => hu.keep rfl rfl) (fun _ _ _ _ => hu.keep rfl rfl)
      (fun _ _ _ => enterDeparted_tableKept _) hu)
    (fun _ _ hu _ => hu.keep (by simp) (by simp))

theorem membershipTakeFrame_tableKept (f : Frame) : (membershipTakeFrame f s).TableKept := by
  refine membershipTakeFrame_ind f s (fun active _ => ?dropped) (fun active _ => ?heard)
    (fun integrate _ mark _ => ?noted) h
  case dropped =>
    exact .of_active (by simpa using active) (by simpa [Membership.dropDeparting, Membership.setPeer] using h.grace)
      (by simpa [Membership.dropDeparting, Membership.setPeer] using h.agree)
      (by simpa [Membership.dropDeparting, Membership.setPeer] using h.disagree)
  case heard =>
    obtain ⟨grace, agree, disagree⟩ := s.members.hear_counts s.own f
    exact .of_active active (grace.trans_le h.grace) (agree.elim (·.trans_le h.agree) id)
      (disagree.elim (·.trans_le h.disagree) id)
  case noted =>
    refine ⟨fun _ n => ?_, fun _ e => absurd integrate e, h.grace, h.agree, h.disagree⟩
    have empty := h.empty (by simp [integrate])
    by_cases hn : f.station = n
    · subst hn; simpa [Membership.setPeer, PeerEntry.note, PeerEntry.isEmpty] using empty f.station
    · simpa [Membership.setPeer, Vector.getElem_set, Fin.val_inj, hn] using empty n

theorem membershipRoundEnd_tableKept (b : SlotStart) : (membershipRoundEnd b s).TableKept := by
  by_cases hb : s.evaluatesAt b = true
  · have members := membershipRoundEnd_members hb
    have grace : (s.members.evaluate s.settings.profile.exclusion).grace ≤ 3 := (Nat.sub_le _ _).trans h.grace
    exact .of_active (by simpa using ((s.evaluatesAt_iff b).mp hb).1) (members ▸ grace) (members ▸ Nat.zero_le _)
      (members ▸ Nat.zero_le _)
  · rw [membershipRoundEnd, if_neg hb]
    exact h

theorem command_tableKept (code : Byte) (args : List Byte) : (commandOf code args s).2.TableKept :=
  commandOf_state_ind s h (h.keep (by simp) (by simp)) (fun _ _ => h.keep rfl rfl) (fun _ _ _ => h.keep (by simp) (by simp))
    (fun _ => h.keep rfl rfl) (h.keep rfl rfl) (fun _ _ _ => h.keep rfl rfl) (fun _ _ => h.keep rfl rfl)
    (fun _ _ => enterListen_tableKept _) (fun _ => h.keep rfl rfl) (fun _ => enterDeparted_tableKept s)
    (fun _ _ => enterListen_tableKept _) (fun _ _ => (enterListen_tableKept _).keep rfl rfl) args

end Table

theorem inReset_tableKept (s : State) : s.inReset.TableKept := by
  constructor <;> simp [State.inReset, State.reset, Membership.reset, PeerEntry.reset, PeerEntry.isEmpty]

theorem tableKept_kept : Kept State.TableKept where
  inReset s _ := inReset_tableKept s
  endReset _ _ h _ := h.keep rfl rfl
  select _ _ h := h.keep rfl rfl
  begin _ h _ _ := h.keep rfl rfl
  endTransaction _ h _ := h.keep rfl rfl
  timeout _ h _ := h.keep rfl rfl
  answer code args _ h _ _ := (command_tableKept h code args).keep rfl rfl
  bit _ _ _ h _ _ := h.keep rfl rfl
  receive _ _ h _ := h.keep rfl rfl
  send _ h _ := h.keep rfl rfl
  pass _ _ h := h.keep rfl rfl
  receiver _ _ h _ := h.keep rfl rfl
  valid _ h := h.keep rfl rfl
  garbled _ h := h.keep rfl rfl
  foreign _ h := h.keep rfl rfl
  offSlot _ h := h.keep rfl rfl
  takeGarbled s h := controllerTakeGarbled_ind s (fun _ => lineActivity_tableKept h) (fun _ => enterListen_tableKept s) h
  takeForeign s h := controllerTakeForeign_ind s (fun _ => lineActivity_tableKept h) h
  controllerFrame f localAt s h := controllerTakeFrame_ind f localAt s (fun _ _ => enterFault_tableKept s)
    (fun idle _ => h.into_idle idle (by simp)) (fun _ => lineActivity_tableKept h) (fun _ _ _ _ => h.keep rfl rfl) h
  timeFrame _ _ _ h := h.keep (by simp) (by simp)
  membershipFrame f _ h := membershipTakeFrame_tableKept h f
  outboundFrame _ _ h := h.keep (by simp) (by simp)
  receiptFrame _ _ _ h _ := h.keep (by simp) (by simp)
  startSending _ _ _ h _ := h.keep rfl rfl
  sofMark s o _ h _ := sendContent_ind o s (h.keep rfl rfl) fun _ => enterDeparted_tableKept _
  sent _ _ _ h _ := h.keep rfl rfl
  echo _ _ h _ := h.keep rfl rfl
  takeEcho kind good s h := controllerTakeEcho_ind kind good s (fun _ => enterListen_tableKept s)
    (fun _ _ _ => h.keep rfl rfl) (fun _ => enterListen_tableKept _) h
  nextSlot _ _ _ h _ := h.keep rfl rfl
  controllerAct b _ h := controllerBoundary_tableKept h b
  timeAct _ _ h := h.keep (by simp) (by simp)
  membershipAct b _ h := membershipRoundEnd_tableKept h b
  outboundAct _ h := h.keep (by simp) (by simp)
  journalAct _ h := h.keep (by simp) (by simp)
  correctionReport r s h := takeCorrectionReport_ind r s (fun _ _ _ => h.keep rfl rfl) (fun _ => enterListen_tableKept _) h
  viewReport s h := takeViewReport_ind s (fun _ => enterListen_tableKept _) h
  coldstart s h hs := h.into_idle (.inl hs) (by simp)
  sample _ _ h _ := h.keep (by simp) (by simp)

/-! ## The own number -/

/-- No block holds anything under the number n (R46, R57, R93, R110). -/
structure State.EmptyAt (n : StationNo) (s : State) : Prop where
  peer : s.members.peers[n] = .reset
  receipt : s.receipts.entries[n] = .reset
  acked : s.queue.ackedThrough[n] = none
  peerSession : s.queue.peerSessions[n] = none
  deviation : ∀ d ∈ s.time.deviations, d.1 ≠ n

theorem State.OwnUnused.empty {s : State} (h : s.OwnUnused) : s.EmptyAt s.own :=
  ⟨h.peer, h.receipt, h.acked, h.peerSession, h.deviation⟩

/-- Out of CONFIG no reset is under way, and what the blocks hold under the own number is all there is to keep. -/
theorem State.OwnUnused.of_empty {s t : State} (h : s.OwnUnused) (out : s.ctrl.station ≠ .config)
    (pins : t.pins = s.pins) (own : t.own = s.own) (e : t.EmptyAt s.own) : t.OwnUnused :=
  have e : t.EmptyAt t.own := own.symm ▸ e
  ⟨fun hr => absurd (h.inReset (pins ▸ hr)).1 out, e.peer, e.receipt, e.acked, e.peerSession, e.deviation⟩

/-- The table, the receipts and the acknowledgements held are the same, and the deviation list is or has lost its
entries. -/
structure SameEntries (s t : State) : Prop where
  members : t.members = s.members
  receipts : t.receipts.entries = s.receipts.entries
  acked : t.queue.ackedThrough = s.queue.ackedThrough
  sessions : t.queue.peerSessions = s.queue.peerSessions
  deviations : t.time.deviations = s.time.deviations ∨ t.time.deviations = []

theorem SameEntries.of {s t : State} (h : t.members = s.members ∧ t.receipts.entries = s.receipts.entries ∧
    t.queue.ackedThrough = s.queue.ackedThrough ∧ t.queue.peerSessions = s.queue.peerSessions ∧
    (t.time.deviations = s.time.deviations ∨ t.time.deviations = [])) : SameEntries s t :=
  ⟨h.1, h.2.1, h.2.2.1, h.2.2.2.1, h.2.2.2.2⟩

theorem State.EmptyAt.keep {n : StationNo} {s t : State} (h : s.EmptyAt n) (same : SameEntries s t) : t.EmptyAt n where
  peer := same.members ▸ h.peer
  receipt := same.receipts ▸ h.receipt
  acked := same.acked ▸ h.acked
  peerSession := same.sessions ▸ h.peerSession
  deviation d hd := by
    rcases same.deviations with e | e <;> rw [e] at hd
    · exact h.deviation d hd
    · simp at hd

theorem State.OwnUnused.keep {s t : State} (h : s.OwnUnused) (same : SameEntries s t) (own : t.own = s.own)
    (station : t.ctrl.station = s.ctrl.station) (transaction : t.port.transaction = s.port.transaction)
    (pins : t.pins.resetLow = s.pins.resetLow) : t.OwnUnused :=
  have e : t.EmptyAt t.own := own.symm ▸ h.empty.keep same
  ⟨fun hr => by
    obtain ⟨config, idle, members, receipts, acked, sessions, none⟩ := h.inReset (pins ▸ hr)
    exact ⟨station.trans config, transaction.trans idle, same.members.trans members,
      same.receipts.trans receipts, same.acked.trans acked, same.sessions.trans sessions,
      same.deviations.elim (·.trans none) id⟩,
    e.peer, e.receipt, e.acked, e.peerSession, e.deviation⟩

section OwnNumber

variable {s : State} {n : StationNo}

/-- An entry to LISTEN, DEPARTED or FAULT empties table and deviation list. -/
theorem State.EmptyAt.emptied {t : State} (h : s.EmptyAt n) (members : t.members = s.members.emptied)
    (receipts : t.receipts = s.receipts) (acked : t.queue.ackedThrough = s.queue.ackedThrough)
    (sessions : t.queue.peerSessions = s.queue.peerSessions) (deviations : t.time.deviations = []) : t.EmptyAt n where
  peer := by
    rw [members]
    exact (emptied_peer _ _ n.isLt).trans (congrArg PeerEntry.emptied h.peer)
  receipt := receipts ▸ h.receipt
  acked := acked ▸ h.acked
  peerSession := sessions ▸ h.peerSession
  deviation := by simp [deviations]

theorem enterListen_emptyAt (h : s.EmptyAt n) : (enterListen s).EmptyAt n :=
  h.emptied (by simp [enterListen]) (by simp) (by simp) (by simp) (by simp [enterListen, TimeUnit.requalify])

theorem reintegrate_emptyAt (h : s.EmptyAt n) : (reintegrate s).EmptyAt n := enterListen_emptyAt (h.keep (.of (by simp)))

theorem retire_emptyAt (st : StationState) (h : s.EmptyAt n) : (retire st s).EmptyAt n :=
  h.emptied (by simp [retire]) (by simp) (by simp) (by simp) (by simp [retire, TimeUnit.requalify])

theorem enterDeparted_emptyAt (h : s.EmptyAt n) : (enterDeparted s).EmptyAt n :=
  retire_emptyAt .departed (h.keep ⟨rfl, rfl, rfl, rfl, .inl rfl⟩)

theorem enterIntegrate_emptyAt (f : Frame) (localAt : Nat) (h : s.EmptyAt n) : (enterIntegrate f localAt s).EmptyAt n :=
  h.keep (.of (by simp [enterIntegrate, restartSlotTimer, TimeUnit.requalify, TimeUnit.replace]))

theorem enterColdstart_emptyAt (h : s.EmptyAt n) : (enterColdstart s).EmptyAt n :=
  h.keep (.of (by simp [enterColdstart, restartSlotTimer, TimeUnit.requalify, TimeUnit.replace]))

theorem enterActive_emptyAt (i : Bool) (b : SlotStart) (h : s.EmptyAt n) : (enterActive i b s).EmptyAt n := by
  have entered := enterActive_spec i b s
  constructor
  · rw [entered.admitted n, h.peer]
    simp [PeerEntry.reset]
  · rw [entered.others.2.2.1]; exact h.receipt
  · rw [entered.records]; exact h.acked
  · rw [entered.records]; exact h.peerSession
  · rw [entered.quality]; exact h.deviation

/-! Writing the entry of another number leaves the own one. -/

theorem getElem_set_other {α : Type} {m : StationNo} (other : m ≠ n) (v : Vector α 16) (x : α) :
    (v.set m x)[n] = v[n] :=
  (Vector.getElem_set m.isLt n.isLt).trans (if_neg fun e => other (Fin.ext e))

theorem State.EmptyAt.setPeer (h : s.EmptyAt n) {m : StationNo} (other : m ≠ n) {t : State} {e : PeerEntry}
    (members : t.members.peers = s.members.peers.set m e) (receipts : t.receipts = s.receipts)
    (queue : t.queue = s.queue) (time : t.time = s.time) : t.EmptyAt n where
  peer := by rw [members]; exact (getElem_set_other other _ _).trans h.peer
  receipt := receipts ▸ h.receipt
  acked := queue ▸ h.acked
  peerSession := queue ▸ h.peerSession
  deviation := time ▸ h.deviation

theorem membershipTakeFrame_emptyAt (f : Frame) (h : s.EmptyAt s.own) : (membershipTakeFrame f s).EmptyAt s.own := by
  refine membershipTakeFrame_ind f s (fun _ other => ?dropped) (fun _ other => ?heard) (fun _ other _ _ => ?noted) h
  case dropped =>
    exact h.setPeer other (by simp [Membership.dropDeparting, Membership.setPeer]; rfl) (by simp) (by simp)
      (by simp)
  case heard =>
    refine h.setPeer other (e := { s.members.peers[f.station].note f with heard := true }) ?_ rfl rfl rfl
    show (Membership.hear _ _ _).peers = _
    unfold Membership.hear Membership.checkView
    split <;> rfl
  case noted => exact h.setPeer other rfl rfl rfl rfl

theorem membershipRoundEnd_emptyAt (b : SlotStart) (h : s.EmptyAt n) : (membershipRoundEnd b s).EmptyAt n := by
  by_cases hb : s.evaluatesAt b = true
  · refine ⟨?_, by simpa using h.receipt, by simpa using h.acked, by simpa using h.peerSession, by simpa using h.deviation⟩
    rw [membershipRoundEnd_peer hb n, h.peer]
    rfl
  · rw [membershipRoundEnd, if_neg hb]
    exact h

theorem State.ackTaken_emptyAt (f : Frame) (other : f.station ≠ n) (h : s.EmptyAt n) : (s.ackTaken f).EmptyAt n := by
  rw [s.ackTaken_writes f]
  exact ⟨h.peer, h.receipt, (getElem_set_other other _ _).trans h.acked,
    (getElem_set_other other _ _).trans h.peerSession, h.deviation⟩

theorem removeWhile_emptyAt (test : QueuedRecord → Bool) (h : s.EmptyAt n) : (removeWhile test s).EmptyAt n :=
  removeWhile_ind test s (h.keep (.of (by simp))) fun _ _ _ => h.keep (.of (by simp [enqueue]))

theorem processBeacon_emptyAt (f : Frame) (other : f.station ≠ n) (h : s.EmptyAt n) : (processBeacon f s).EmptyAt n :=
  processBeacon_ind f s h (fun _ _ hu => hu.keep (.of (by simp)))
    (fun _ _ hu => ⟨hu.peer, (getElem_set_other other _ _).trans hu.receipt, hu.acked, hu.peerSession, hu.deviation⟩)
    (fun _ _ _ hu _ _ => hu.keep (.of (by simp)))

end OwnNumber

end Sys2Proof.Machine
end

section
/-! SUPPORT. Every shared operation keeps the entries under the own number empty (State.OwnUnused). -/

namespace Sys2Proof.Machine

/-- While no reset is under way the entries are all there is to keep. -/
theorem State.OwnUnused.of_noReset {t : State} {n : StationNo} (noReset : t.pins.resetLow = false) (own : t.own = n)
    (e : t.EmptyAt n) : t.OwnUnused :=
  have e : t.EmptyAt t.own := own.symm ▸ e
  ⟨fun hr => by simp [noReset] at hr, e.peer, e.receipt, e.acked, e.peerSession, e.deviation⟩

section OwnUnused

variable {s t : State} (h : s.OwnUnused)
include h

theorem State.OwnUnused.noReset (busy : s.port.transaction ≠ .idle) : s.pins.resetLow = false :=
  Bool.eq_false_of_not_eq_true fun low => busy (h.inReset low).2.1

/-- An operation of a station that runs keeps the entries under the own number. -/
theorem State.OwnUnused.running (runs : s.ctrl.station.Running) (e : t.EmptyAt s.own) (own : t.own = s.own)
    (pins : t.pins = s.pins) : t.OwnUnused := h.of_empty runs.ne_config pins own e

theorem lineActivity_ownUnused (hs : s.ctrl.station = .listen) : (lineActivity s).OwnUnused :=
  lineActivity_ind s (fun _ => h.running (.inl hs) (h.empty.keep (.of (by simp))) rfl rfl) h

theorem controllerTakeFrame_ownUnused (f : Frame) (localAt : Nat) : (controllerTakeFrame f localAt s).OwnUnused := by
  refine controllerTakeFrame_ind f localAt s (fun runs _ => ?_) (fun idle _ => ?_) (fun hs => lineActivity_ownUnused h hs)
    (fun _ _ hs _ => ?_) h
  · exact h.running runs (retire_emptyAt .faulted h.empty) (by simp [State.own]) (by simp)
  · exact h.running (idle.imp id .inl) (enterIntegrate_emptyAt f localAt h.empty) (by simp [State.own]) (by simp)
  · exact h.running (.inr (.inr (.inl hs))) (h.empty.keep (.of (by simp))) rfl rfl

theorem timeTakeFrame_ownUnused (f : Frame) (sof : CommonTime) : (timeTakeFrame f sof s).OwnUnused := by
  refine timeTakeFrame_ind f sof s (fun measured => ?_) h
  have ⟨other, out⟩ : f.station ≠ s.own ∧ s.ctrl.station ≠ .config := by
    simp only [State.measures, Bool.and_eq_true, bne_iff_ne, ne_eq] at measured
    exact ⟨measured.1.2, fun e => by simp [e] at measured⟩
  refine h.of_empty out rfl rfl ⟨h.peer, h.receipt, h.acked, h.peerSession, fun d hd => ?_⟩
  rcases List.mem_append.mp hd with hd | hd
  · exact h.deviation d hd
  · rw [List.mem_singleton.mp hd]; exact other

theorem outboundTakeFrame_ownUnused (f : Frame) : (outboundTakeFrame f s).OwnUnused :=
  outboundTakeFrame_ind f s
    (fun other runs => h.running runs (s.ackTaken_emptyAt f other h.empty) rfl rfl)
    (fun test other active => h.running (.inr (.inr (.inr active)))
      (removeWhile_emptyAt test (s.ackTaken_emptyAt f other h.empty)) (by simp [State.own]; rfl) (by simp; rfl)) h

theorem controllerBoundary_ownUnused (b : SlotStart) : (controllerBoundary b s).OwnUnused := by
  refine controllerBoundary_ind b s ?entry (fun u hu => ?drain) (fun o u hu _ => ?order)
  case entry =>
    refine controllerEntry_ind b s (fun i hs => ?_) (fun hs => ?_) h
    · exact h.running (.inr (hs.imp id .inl)) (enterActive_emptyAt i b h.empty) (by simp [State.own]) (by simp)
    · exact h.running (.inr (.inr (.inl hs))) (enterListen_emptyAt h.empty) (by simp [State.own]) (by simp)
  case drain =>
    refine drainRoundEnd_ind u (fun _ _ _ _ => ?_) (fun _ _ _ _ => ?_) (fun _ _ runs => ?_) hu
    · exact hu.keep (.of (by simp)) rfl rfl rfl rfl
    · exact hu.keep (.of (by simp)) rfl rfl rfl rfl
    · exact hu.running runs (enterDeparted_emptyAt (hu.empty.keep (.of (by simp)))) (by simp [State.own]) (by simp)
  case order => exact hu.keep (.of (by simp)) (by simp [State.own]) (by simp) (by simp) (by simp)

theorem reintegrate_ownUnused (hs : s.ctrl.station = .active) : (reintegrate s).OwnUnused :=
  h.running (.inr (.inr (.inr hs))) (reintegrate_emptyAt h.empty) (by simp [State.own]) (by simp)

theorem enterListen_ownUnused (runs : s.ctrl.station.Running) : (enterListen s).OwnUnused :=
  h.running runs (enterListen_emptyAt h.empty) (by simp [State.own]) (by simp)

omit h in
theorem command_own (code : Byte) (args : List Byte) (s : State) : (commandOf code args s).2.own = s.own :=
  commandOf_state_ind (P := fun u => u.own = s.own) s rfl (by simp [State.own]) (fun _ _ => rfl)
    (fun _ _ _ => by simp [State.own]) (fun _ => rfl) rfl (fun _ _ _ => rfl) (fun _ _ => rfl)
    (fun _ _ => by simp [State.own, State.started]) (fun _ => rfl) (fun _ => by simp [State.own])
    (fun _ _ => by simp [State.own, rejoinBlocks]) (fun _ _ => by simp [State.own, rejoinBlocks]) args

theorem command_ownUnused (busy : s.port.transaction ≠ .idle) (code : Byte) (args : List Byte) :
    (commandOf code args s).2.OwnUnused := by
  refine State.OwnUnused.of_noReset ((congrArg Pins.resetLow (command_pins code args s)).trans (h.noReset busy))
    (command_own code args s) ?_
  have rejoined : (rejoinBlocks s).EmptyAt s.own :=
    ⟨h.peer, h.receipt, by simp [rejoinBlocks, OutboundQueue.rejoin], h.peerSession, h.deviation⟩
  have e := h.empty
  exact commandOf_state_ind s e (e.keep (.of (by simp))) (fun _ _ => e.keep (.of (by simp)))
    (fun _ _ _ => e.keep (.of (by simp [enqueue]))) (fun _ => e.keep (.of (by simp)))
    (e.keep ⟨rfl, rfl, rfl, rfl, .inl rfl⟩) (fun _ _ _ => e.keep (.of (by simp))) (fun _ _ => e.keep (.of (by simp)))
    (fun _ _ => enterListen_emptyAt (e.keep ⟨rfl, rfl, rfl, rfl, .inl rfl⟩)) (fun _ => e.keep (.of (by simp))) (fun _ => enterDeparted_emptyAt e)
    (fun _ _ => enterListen_emptyAt rejoined) (fun _ _ => (enterListen_emptyAt rejoined).keep (.of (by simp))) args

end OwnUnused

theorem State.EmptyAt.of_reset {s : State} {n : StationNo} (members : s.members = .reset)
    (receipts : s.receipts.entries = Vector.replicate 16 .reset)
    (acked : s.queue.ackedThrough = Vector.replicate 16 none)
    (sessions : s.queue.peerSessions = Vector.replicate 16 none) (deviations : s.time.deviations = []) : s.EmptyAt n := by
  constructor
  · simp [members, Membership.reset]
  · simp [receipts]
  · simp [acked]
  · simp [sessions]
  · simp [deviations]

theorem inReset_ownUnused (s : State) : s.inReset.OwnUnused :=
  have e : s.inReset.EmptyAt s.inReset.own := .of_reset rfl rfl rfl rfl rfl
  ⟨fun _ => ⟨rfl, rfl, rfl, rfl, rfl, rfl, rfl⟩, e.peer, e.receipt, e.acked, e.peerSession, e.deviation⟩

theorem endReset_ownUnused (straps : BitVec 4) {s : State} (h : s.OwnUnused) (low : s.pins.resetLow = true) :
    (endReset straps s).OwnUnused :=
  have ⟨_, _, members, receipts, acked, sessions, deviations⟩ := h.inReset low
  have e : (endReset straps s).EmptyAt (endReset straps s).own := .of_reset members receipts acked sessions deviations
  ⟨fun hr => by simp [endReset] at hr, e.peer, e.receipt, e.acked, e.peerSession, e.deviation⟩

theorem ownUnused_kept : Kept State.OwnUnused where
  inReset s _ := inReset_ownUnused s
  endReset straps _ h low := endReset_ownUnused straps h low
  select _ _ h := h.keep (.of (by simp)) rfl rfl rfl rfl
  begin _ h _ noReset := State.OwnUnused.of_noReset noReset rfl (h.empty.keep (.of (by simp)))
  endTransaction _ h busy := State.OwnUnused.of_noReset (h.noReset busy) rfl
    (h.empty.keep ⟨rfl, rfl, rfl, rfl, .inl rfl⟩)
  timeout _ h busy := State.OwnUnused.of_noReset (h.noReset (by rcases busy with e | e <;> simp [e])) rfl
    (h.empty.keep ⟨rfl, rfl, rfl, rfl, .inl rfl⟩)
  answer code args _ h command _ := 
    have busy := by simp [command]
    have u := command_ownUnused h busy code args
    State.OwnUnused.of_noReset ((congrArg Pins.resetLow (command_pins code args _)).trans (h.noReset busy)) rfl (u.empty.keep ⟨rfl, rfl, rfl, rfl, .inl rfl⟩)
  bit _ _ _ h _ _ := h.keep (.of (by simp)) rfl rfl rfl rfl
  receive _ _ h _ := h.keep (.of (by simp)) rfl rfl rfl rfl
  send _ h _ := h.keep (.of (by simp)) rfl rfl rfl rfl
  pass _ _ h := h.keep ⟨rfl, rfl, rfl, rfl, .inl rfl⟩ rfl rfl rfl rfl
  receiver _ _ h _ := h.keep (.of (by simp)) rfl rfl rfl rfl
  valid _ h := h.keep (.of (by simp)) rfl rfl rfl rfl
  garbled _ h := h.keep (.of (by simp)) rfl rfl rfl rfl
  foreign _ h := h.keep (.of (by simp)) rfl rfl rfl rfl
  offSlot _ h := h.keep (.of (by simp)) rfl rfl rfl rfl
  takeGarbled s h := controllerTakeGarbled_ind s (lineActivity_ownUnused h)
    (fun hs => enterListen_ownUnused h (.inr (.inl hs))) h
  takeForeign s h := controllerTakeForeign_ind s (lineActivity_ownUnused h) h
  controllerFrame f localAt _ h := controllerTakeFrame_ownUnused h f localAt
  timeFrame f sof _ h := timeTakeFrame_ownUnused h f sof
  membershipFrame f s h := by
    have e := membershipTakeFrame_emptyAt f h.empty
    by_cases out : s.ctrl.station = .config
    · have same : membershipTakeFrame f s = s := by unfold membershipTakeFrame; simp [out]
      rwa [same]
    · exact h.of_empty out (by simp) (by simp [State.own]) e
  outboundFrame f _ h := outboundTakeFrame_ownUnused h f
  receiptFrame integrating f s h out := receiptTakeFrame_ind integrating f s
    (fun other runs => h.of_empty (by rcases runs with e | e | e <;> simp [*])
      (by simp) (by simp [State.own]) (processBeacon_emptyAt f other h.empty)) h
  startSending _ _ _ h _ := h.keep (.of (by simp)) rfl rfl rfl rfl
  sofMark s o _ h _ := 
    have sent : (s.contentSent o).OwnUnused := h.keep ⟨rfl, rfl, by unfold State.contentSent; split <;> rfl, by unfold State.contentSent; split <;> rfl, .inl rfl⟩ rfl rfl rfl rfl
    sendContent_ind o s sent fun active =>
      sent.running (.inr (.inr (.inr active))) (enterDeparted_emptyAt sent.empty) (by simp [State.own]) (by simp)
  sent _ _ _ h _ := h.keep (.of (by simp)) rfl rfl rfl rfl
  echo _ _ h _ := h.keep (.of (by simp)) rfl rfl rfl rfl
  takeEcho kind good s h := controllerTakeEcho_ind kind good s (fun hs => enterListen_ownUnused h (.inr (.inl hs)))
    (fun _ _ _ => h.keep (.of (by simp)) rfl rfl rfl rfl) (reintegrate_ownUnused h) h
  nextSlot _ _ _ h _ := h.keep (.of (by simp)) rfl rfl rfl rfl
  controllerAct b _ h := controllerBoundary_ownUnused h b
  timeAct b s h := timeRoundEnd_ind b s (h.keep (.of (by simp)) rfl rfl rfl rfl)
    (fun _ => h.keep (.of (by simp [TimeUnit.requalify, TimeUnit.correct])) (by simp [State.own])
      (by simp) ((holdPersistent_grows _).transaction) (by simp)) h
  membershipAct b s h := by
    by_cases hb : s.evaluatesAt b = true
    · exact h.running (.inr (.inr (.inr ((s.evaluatesAt_iff b).mp hb).1))) (membershipRoundEnd_emptyAt b h.empty)
        (by simp [State.own]) (by simp)
    · rw [membershipRoundEnd, if_neg hb]; exact h
  outboundAct s h := outboundRoundEnd_ind s (fun test active => h.running (.inr (.inr (.inr active)))
    (removeWhile_emptyAt test h.empty) (by simp [State.own]) (by simp)) h
  journalAct s h := journalBoundary_ind s (fun _ => h.keep (.of (by simp)) rfl rfl rfl rfl) h
  correctionReport r s h := takeCorrectionReport_ind r s (fun _ _ _ => h.keep (.of (by simp)) rfl rfl rfl rfl)
    (reintegrate_ownUnused h) h
  viewReport s h := takeViewReport_ind s (reintegrate_ownUnused h) h
  coldstart _ h hs := h.running (.inl hs) (enterColdstart_emptyAt h.empty) (by simp [State.own]) (by simp)
  sample levels s h _ := by
    refine takeSample_ind levels s (h.keep (.of (by simp)) rfl rfl rfl rfl) fun d u hu _ _ _ => handOver_ind d u ?_ fun _ => ?_
    · exact hu.keep (.of (by simp [loseRecord])) (by simp [State.own]) (by simp)
        (loseRecord_grows d u).transaction (by simp)
    · exact hu.keep (.of (by simp [enqueue])) (by simp [State.own]) (by simp)
        (enqueue_grows d u).transaction (by simp)

end Sys2Proof.Machine
end

section
/-! SUPPORT. The Journal moves by insertion, release and the taking of a session alone: a property of the Journal that
these keep, every operation but those of the Host Port keeps. -/

namespace Sys2Proof.Machine

/-- A property of the Journal that insertion, the release steps and the taking of a session keep. -/
structure Journal.Stable (Q : Journal → Prop) : Prop where
  insert : ∀ r j, Q j → Q (Journal.insert j r)
  release : ∀ c j, Q j → Q (Journal.releaseStep j c)
  final : ∀ j, Q j → Q (Journal.finalRelease j)
  session : ∀ own x j, Q j → Q (Journal.takeSession j own x)

theorem journalInsert_journal (r : JournalRecord) (s : State) : (journalInsert r s).journal = s.journal.insert r := by
  simp [journalInsert]

section

variable {Q : Journal → Prop} (k : Journal.Stable Q) {s : State} (h : Q s.journal)
include k h

theorem Journal.Stable.journalInsert (r : JournalRecord) : Q (journalInsert r s).journal := by
  rw [journalInsert_journal]; exact k.insert r _ h

theorem Journal.Stable.enqueue (d : Draft) : Q (enqueue d s).journal := by
  refine k.journalInsert ?_ _
  exact h

theorem Journal.Stable.handOver (d : Draft) : Q (handOver d s).journal :=
  handOver_ind (P := fun t => Q t.journal) d s (by simpa [loseRecord] using h) fun _ => k.enqueue h d

theorem Journal.Stable.takeSample (levels : BitVec 8) : Q (takeSample levels s).journal :=
  takeSample_ind (P := fun t => Q t.journal) levels s h fun d _ hu _ _ _ => k.handOver hu d

theorem Journal.Stable.removeWhile (test : QueuedRecord → Bool) : Q (removeWhile test s).journal :=
  removeWhile_ind (P := fun t => Q t.journal) test s h fun _ _ _ => k.enqueue (by exact h) _

theorem Journal.Stable.outboundTakeFrame (f : Frame) : Q (outboundTakeFrame f s).journal :=
  outboundTakeFrame_ind (P := fun t => Q t.journal) f s (fun _ _ => h)
    (fun test _ _ => k.removeWhile (by exact h) test) h

theorem Journal.Stable.outboundRoundEnd : Q (outboundRoundEnd s).journal :=
  outboundRoundEnd_ind (P := fun t => Q t.journal) s (fun test _ => k.removeWhile h test) h

theorem Journal.Stable.processBeacon (f : Frame) : Q (processBeacon f s).journal :=
  processBeacon_ind (P := fun t => Q t.journal) f s h (fun _ _ hu => k.journalInsert hu _) (fun _ _ hu => hu)
    (fun _ _ _ hu _ _ => hu)

theorem Journal.Stable.receiptTakeFrame (integrating : Bool) (f : Frame) : Q (receiptTakeFrame integrating f s).journal :=
  receiptTakeFrame_ind (P := fun t => Q t.journal) integrating f s (fun _ _ => k.processBeacon h f) h

theorem Journal.Stable.journalBoundary : Q (journalBoundary s).journal :=
  journalBoundary_ind (P := fun t => Q t.journal) s (fun c => k.release c _ h) h

theorem Journal.Stable.retire (st : StationState) : Q (retire st s).journal := by
  simpa [Machine.retire] using k.final _ h

theorem Journal.Stable.enterDeparted : Q (enterDeparted s).journal := by
  refine k.retire ?_ _
  exact h

theorem Journal.Stable.controllerTakeFrame (f : Frame) (localAt : Nat) : Q (controllerTakeFrame f localAt s).journal :=
  controllerTakeFrame_ind (P := fun t => Q t.journal) f localAt s (fun _ _ => k.retire h .faulted)
    (fun _ _ => by simpa using h) (fun _ => by simpa using h) (fun _ _ _ _ => h) h

theorem Journal.Stable.sendContent (o : TransmitOrder) : Q (sendContent o s).journal :=
  sendContent_ind (P := fun t => Q t.journal) o s h fun _ => k.enterDeparted (by exact h)

theorem Journal.Stable.controllerBoundary (b : SlotStart) : Q (controllerBoundary b s).journal := by
  refine controllerBoundary_ind (P := fun t => Q t.journal) b s ?entry (fun u hu => ?drain) fun _ _ hu _ => by simpa using hu
  case entry =>
    refine controllerEntry_ind (P := fun t => Q t.journal) b s (fun i _ => ?_) (fun _ => by simpa using h) h
    rw [(enterActive_spec i b s).journal]
    exact k.session _ _ _ h
  case drain =>
    exact drainRoundEnd_ind (P := fun t => Q t.journal) u (fun _ _ _ _ => hu) (fun _ _ _ _ => hu)
      (fun _ _ _ => k.enterDeparted (by exact hu)) hu

/-- A host command beside READ_RECORD keeps it too, if the clearing of the counters and REJOIN do. -/
theorem Journal.Stable.command (cleared : Q { s.journal with overrun := 0, overflow := 0, late := 0, forced := 0 })
    (rejoined : Q s.journal.rejoin) {code : Byte} (pinned : code = 0x10 → s.journal.released ≠ [] → Q { s.journal with pinned := true })
    (args : List Byte) : Q (commandOf code args s).2.journal :=
  commandOf_state_ind (P := fun t => Q t.journal) s h (by simpa using h) pinned (fun _ _ _ => k.enqueue h _)
    (fun _ => h) cleared (fun _ _ _ => h) (fun _ _ => h) (fun _ _ => by simpa [State.started] using h) (fun _ => h)
    (fun _ => k.enterDeparted (by exact h)) (fun _ _ => by simpa [rejoinBlocks] using rejoined)
    (fun _ _ => by simpa [rejoinBlocks] using rejoined) args

end

/-! ## The counters of the Journal and the pin -/

/-- The Journal's counters are 16-bit counts (R185). -/
def Journal.CountsInRange (j : Journal) : Prop :=
  j.overrun ≤ 65535 ∧ j.overflow ≤ 65535 ∧ j.late ≤ 65535 ∧ j.forced ≤ 65535

theorem countUp_le (c n : Nat) : countUp c n ≤ 65535 := Nat.min_le_right _ _

section

variable {j : Journal}

theorem Journal.CountsInRange.place (h : j.CountsInRange) (r : JournalRecord) : (j.place r).CountsInRange :=
  iteInduction (motive := Journal.CountsInRange) (fun _ => ⟨h.1, h.2.1, countUp_le _ _, h.2.2.2⟩) fun _ => h

theorem Journal.CountsInRange.forcedRelease (h : j.CountsInRange) : j.forcedRelease.CountsInRange := by
  unfold Journal.forcedRelease
  split
  · exact h
  · exact ⟨h.1, h.2.1, h.2.2.1, countUp_le _ _⟩

/-- A discard moves the released part and the overrun counter. -/
theorem Journal.discardReleased_writes {k : Journal} (h : j.discardReleased = some k) :
    k = { j with released := k.released, overrun := countUp j.overrun 1 } := by
  unfold Journal.discardReleased at h
  split at h <;> simp only [Option.some.injEq, reduceCtorEq] at h <;> rw [← h]

theorem Journal.CountsInRange.insert (h : j.CountsInRange) (r : JournalRecord) : (j.insert r).CountsInRange := by
  unfold Journal.insert Journal.admitRecord
  split
  · exact h
  · split
    · split
      case h_1 k hk =>
        rw [Journal.discardReleased_writes hk]
        exact Journal.CountsInRange.place (j := { j with released := k.released, overrun := _ })
          ⟨countUp_le _ _, h.2.1, h.2.2.1, h.2.2.2⟩ r
      case h_2 =>
        have counted (l : List JournalRecord) :
            Journal.CountsInRange { j with unreleased := l, overflow := countUp j.overflow 1 } :=
          ⟨h.1, countUp_le _ _, h.2.2.1, h.2.2.2⟩
        exact iteInduction (motive := Journal.CountsInRange) (fun _ => ((counted _).place r).forcedRelease)
          fun _ => (counted _).forcedRelease
    · exact h.place r

theorem Journal.forcedRelease_pinned (j : Journal) : j.forcedRelease.pinned = j.pinned := by
  unfold Journal.forcedRelease; split <;> rfl

theorem Journal.insert_pinned (j : Journal) (r : JournalRecord) : (j.insert r).pinned = j.pinned := by
  unfold Journal.insert Journal.admitRecord
  split
  · rfl
  · split
    · split
      case h_1 k hk => rw [Journal.place_pinned, Journal.discardReleased_writes hk]
      case h_2 =>
        refine iteInduction (motive := fun k : Journal => k.pinned = j.pinned) (fun _ => ?_) fun _ => ?_
        · rw [Journal.forcedRelease_pinned, Journal.place_pinned]
        · rw [Journal.forcedRelease_pinned]
    · exact Journal.place_pinned j r

end

theorem Journal.countsInRange_stable : Journal.Stable Journal.CountsInRange where
  insert r _ h := h.insert r
  release c j h := by unfold Journal.releaseStep; split <;> exact h
  final j h := by
    unfold Journal.finalRelease
    split
    · exact h
    · exact ⟨h.1, h.2.1, h.2.2.1, countUp_le _ _⟩
  session _ _ _ h := h

theorem Journal.pinned_stable (p : Bool) : Journal.Stable fun j => j.pinned = p where
  insert r j h := (j.insert_pinned r).trans h
  release c j h := by unfold Journal.releaseStep; split <;> exact h
  final j h := by unfold Journal.finalRelease; split <;> exact h
  session _ _ _ h := h

theorem Journal.ordered_stable : Journal.Stable Journal.Ordered where
  insert r _ h := insert_ordered r h
  release c _ h := releaseStep_ordered c h
  final _ h := (finalRelease_ordered h).1
  session own x _ h := takeSession_ordered own x h

end Sys2Proof.Machine
end

section
/-! SUPPORT. Every step keeps the thirteen counters in their range and a record pinned exactly during a READ_RECORD
(State.countersInRange, State.PinKept). -/

namespace Sys2Proof.Machine

/-! ## Counters -/

def LineInterface.CountsInRange (l : LineInterface) : Prop :=
  l.valid ≤ 65535 ∧ l.garbled ≤ 65535 ∧ l.foreign ≤ 65535 ∧ l.offSlot ≤ 65535 ∧ l.echoFailures ≤ 65535

def OutboundQueue.CountsInRange (q : OutboundQueue) : Prop := q.captureLost ≤ 65535 ∧ q.abandoned ≤ 65535

def ReceiptUnit.CountsInRange (r : ReceiptUnit) : Prop := r.duplicates ≤ 65535 ∧ r.gaps ≤ 65535

/-- The counters in range, block by block. -/
structure State.CountsKept (s : State) : Prop where
  line : s.line.CountsInRange
  queue : s.queue.CountsInRange
  receipts : s.receipts.CountsInRange
  journal : s.journal.CountsInRange

theorem State.countersInRange_iff (s : State) : s.countersInRange ↔ s.CountsKept := by
  unfold State.countersInRange State.counters
  simp only [List.forall_mem_cons, List.not_mem_nil, false_imp_iff, implies_true, and_true]
  exact ⟨fun ⟨a, b, c, d, e, f, g, i, j, k, l, m, n⟩ => ⟨⟨a, b, c, d, e⟩, ⟨f, g⟩, ⟨i, j⟩, ⟨k, l, m, n⟩⟩,
    fun ⟨⟨a, b, c, d, e⟩, ⟨f, g⟩, ⟨i, j⟩, ⟨k, l, m, n⟩⟩ => ⟨a, b, c, d, e, f, g, i, j, k, l, m, n⟩⟩

section Counts

variable {s t : State} (h : s.CountsKept)
include h

theorem State.CountsKept.keep (line : t.line = { s.line with
      receiverOn := t.line.receiverOn, receiver := t.line.receiver, transmitter := t.line.transmitter
      echo := t.line.echo })
    (queue : t.queue.captureLost = s.queue.captureLost ∧ t.queue.abandoned = s.queue.abandoned)
    (receipts : t.receipts = s.receipts) (journal : t.journal.CountsInRange) : t.CountsKept where
  line := by rw [line]; exact h.line
  queue := by unfold OutboundQueue.CountsInRange; rw [queue.1, queue.2]; exact h.queue
  receipts := receipts ▸ h.receipts
  journal := journal

theorem State.CountsKept.setLine {l : LineInterface} (line : l.CountsInRange) : (s.setLine l).CountsKept :=
  ⟨line, h.queue, h.receipts, h.journal⟩

theorem State.CountsKept.setQueue {q : OutboundQueue} (queue : q.CountsInRange) : (s.setQueue q).CountsKept :=
  ⟨h.line, queue, h.receipts, h.journal⟩

theorem enterListen_counts : (enterListen s).CountsKept :=
  h.keep (by simp [enterListen]) (by simp) (by simp) (by simpa using h.journal)

theorem retire_counts (st : StationState) : (retire st s).CountsKept :=
  h.keep (by simp [retire]) (by simp) (by simp) (Journal.countsInRange_stable.retire h.journal st)

theorem enterDeparted_counts : (enterDeparted s).CountsKept :=
  retire_counts (State.CountsKept.setQueue h (q := s.queue.discard) ⟨h.queue.1, countUp_le _ _⟩) .departed

theorem enterIntegrate_counts (f : Frame) (localAt : Nat) : (enterIntegrate f localAt s).CountsKept :=
  h.keep (by simp [enterIntegrate, restartSlotTimer]) (by simp) (by simp) (by simpa using h.journal)

theorem enterColdstart_counts : (enterColdstart s).CountsKept :=
  h.keep (by simp [enterColdstart, restartSlotTimer, placeOrder]) (by simp) (by simp) (by simpa using h.journal)

theorem enterActive_counts (i : Bool) (b : SlotStart) : (enterActive i b s).CountsKept := by
  have entered := enterActive_spec i b s
  refine h.keep (by rw [entered.line]) (by simp [entered.records]) entered.others.2.2.1 ?_
  rw [entered.journal]
  exact Journal.countsInRange_stable.session _ _ _ h.journal

theorem journalInsert_counts (r : JournalRecord) : (journalInsert r s).CountsKept :=
  h.keep (by simp) (by simp) (by simp) (Journal.countsInRange_stable.journalInsert h.journal r)

theorem enqueue_counts (d : Draft) : (enqueue d s).CountsKept := by
  refine journalInsert_counts (h.setQueue ?_) _
  exact h.queue

theorem handOver_counts (d : Draft) : (handOver d s).CountsKept := by
  refine handOver_ind d s ?_ fun _ => enqueue_counts h d
  have lost : ((s.setQueue { s.queue with captureLost := countUp s.queue.captureLost 1 }).setCapture
      { s.capture with pendingLoss := some (PendingLoss.after d s.capture.pendingLoss) }).CountsKept :=
    ⟨h.line, ⟨countUp_le _ _, h.queue.2⟩, h.receipts, h.journal⟩
  exact lost.keep (by simp [loseRecord]) (by simp [loseRecord]) (by simp [loseRecord])
    (by simpa [loseRecord] using h.journal)

theorem takeSample_counts (levels : BitVec 8) : (takeSample levels s).CountsKept :=
  takeSample_ind levels s ⟨h.line, h.queue, h.receipts, h.journal⟩ fun d _ hu _ _ _ => handOver_counts hu d

theorem removeWhile_counts (test : QueuedRecord → Bool) : (removeWhile test s).CountsKept :=
  removeWhile_ind test s (h.setQueue h.queue) fun _ _ _ => by
    refine enqueue_counts ?_ _
    exact ⟨h.line, h.queue, h.receipts, h.journal⟩

theorem lineActivity_counts : (lineActivity s).CountsKept :=
  lineActivity_ind s (fun _ => ⟨h.line, h.queue, h.receipts, h.journal⟩) h

theorem setCtrl_counts (c : Controller) : (s.setCtrl c).CountsKept := ⟨h.line, h.queue, h.receipts, h.journal⟩

theorem reintegrate_counts : (reintegrate s).CountsKept := enterListen_counts (setCtrl_counts h _)

theorem controllerBoundary_counts (b : SlotStart) : (controllerBoundary b s).CountsKept :=
  controllerBoundary_ind b s
    (controllerEntry_ind b s (fun i _ => enterActive_counts h i b) (fun _ => enterListen_counts h) h)
    (fun u hu => drainRoundEnd_ind u (fun _ _ _ _ => setCtrl_counts hu _) (fun _ _ _ _ => setCtrl_counts hu _)
      (fun _ _ _ => enterDeparted_counts (setCtrl_counts hu _)) hu)
    (fun _ _ hu _ => hu.keep (by simp [placeOrder]) (by simp) (by simp) (by simpa using hu.journal))

theorem processBeacon_counts (f : Frame) : (processBeacon f s).CountsKept :=
  processBeacon_ind f s h (fun _ _ hu => journalInsert_counts hu _)
    (fun _ _ hu => ⟨hu.line, hu.queue, hu.receipts, hu.journal⟩)
    (fun _ _ _ hu hd hg => ⟨hu.line, hu.queue,
      ⟨hd.elim (·.trans_le hu.receipts.1) id, hg.elim (·.trans_le hu.receipts.2) id⟩, hu.journal⟩)

theorem ackTaken_counts (f : Frame) : (s.ackTaken f).CountsKept := by
  rw [s.ackTaken_writes f]
  exact ⟨h.line, h.queue, h.receipts, h.journal⟩

theorem command_counts (code : Byte) (args : List Byte) : (commandOf code args s).2.CountsKept := by
  have rejoined : (rejoinBlocks s).CountsKept := ⟨h.line, h.queue, h.receipts, h.journal⟩
  exact commandOf_state_ind s h (h.keep (by simp) (by simp) (by simp) (by simpa using h.journal))
    (fun _ _ => ⟨h.line, h.queue, h.receipts, h.journal⟩) (fun _ _ _ => enqueue_counts h _)
    (fun _ => ⟨h.line, h.queue, h.receipts, h.journal⟩)
    ⟨by simp [clearCounters, LineInterface.CountsInRange], by simp [clearCounters, OutboundQueue.CountsInRange],
      by simp [clearCounters, ReceiptUnit.CountsInRange], by simp [clearCounters, Journal.CountsInRange]⟩
    (fun _ _ _ => ⟨h.line, h.queue, h.receipts, h.journal⟩) (fun _ _ => ⟨h.line, h.queue, h.receipts, h.journal⟩)
    (fun _ _ => enterListen_counts ⟨h.line, h.queue, h.receipts, h.journal⟩) (fun _ => setCtrl_counts h _)
    (fun _ => enterDeparted_counts h) (fun _ _ => enterListen_counts rejoined)
    (fun _ _ => setCtrl_counts (enterListen_counts rejoined) _) args

end Counts

theorem inReset_counts (s : State) : s.inReset.CountsKept := by
  constructor <;> simp [State.inReset, State.reset, LineInterface.CountsInRange, LineInterface.reset,
    OutboundQueue.CountsInRange, OutboundQueue.reset, ReceiptUnit.CountsInRange, ReceiptUnit.reset,
    Journal.CountsInRange, Journal.reset]

theorem counts_kept : Kept State.CountsKept where
  inReset s _ := inReset_counts s
  endReset _ _ h _ := ⟨h.line, h.queue, h.receipts, h.journal⟩
  select _ _ h := ⟨h.line, h.queue, h.receipts, h.journal⟩
  begin _ h _ _ := ⟨h.line, h.queue, h.receipts, h.journal⟩
  endTransaction s h _ := by
    refine ⟨h.line, h.queue, h.receipts, ?_⟩
    simp only [endTransaction, Journal.completeRead]
    split <;> [(split <;> [(split <;> exact h.journal); exact h.journal]); exact h.journal]
  timeout s h _ := by
    refine ⟨h.line, h.queue, h.receipts, ?_⟩
    simp only [timeoutTransaction, raise_keeps]
    split <;> exact h.journal
  answer code args _ h _ _ := by
    have u := command_counts h code args
    exact ⟨u.line, u.queue, u.receipts, u.journal⟩
  bit _ _ _ h _ _ := ⟨h.line, h.queue, h.receipts, h.journal⟩
  receive _ _ h _ := ⟨h.line, h.queue, h.receipts, h.journal⟩
  send _ h _ := ⟨h.line, h.queue, h.receipts, h.journal⟩
  pass _ _ h := ⟨h.line, h.queue, h.receipts, h.journal⟩
  receiver _ _ h _ := h.setLine h.line
  valid _ h := h.setLine ⟨countUp_le _ _, h.line.2⟩
  garbled _ h := h.setLine ⟨h.line.1, countUp_le _ _, h.line.2.2⟩
  foreign _ h := h.setLine ⟨h.line.1, h.line.2.1, countUp_le _ _, h.line.2.2.2⟩
  offSlot _ h := h.setLine ⟨h.line.1, h.line.2.1, h.line.2.2.1, countUp_le _ _, h.line.2.2.2.2⟩
  takeGarbled s h := controllerTakeGarbled_ind s (fun _ => lineActivity_counts h) (fun _ => enterListen_counts h) h
  takeForeign s h := controllerTakeForeign_ind s (fun _ => lineActivity_counts h) h
  controllerFrame f localAt s h := controllerTakeFrame_ind f localAt s (fun _ _ => retire_counts h .faulted)
    (fun _ _ => enterIntegrate_counts h f localAt) (fun _ => lineActivity_counts h)
    (fun _ _ _ _ => setCtrl_counts h _) h
  timeFrame f sof s h := timeTakeFrame_ind f sof s (fun _ => ⟨h.line, h.queue, h.receipts, h.journal⟩) h
  membershipFrame _ _ h := h.keep (by simp) (by simp) (by simp) (by simpa using h.journal)
  outboundFrame f s h := outboundTakeFrame_ind f s (fun _ _ => ackTaken_counts h f)
    (fun test _ _ => removeWhile_counts (ackTaken_counts h f) test) h
  receiptFrame integrating f s h _ := receiptTakeFrame_ind integrating f s (fun _ _ => processBeacon_counts h f) h
  startSending _ _ _ h _ := h.setLine h.line
  sofMark s o _ h _ :=
    have sent : (s.contentSent o).CountsKept :=
      ⟨h.line, by unfold State.contentSent; dsimp only; split <;> exact h.queue, h.receipts, h.journal⟩
    sendContent_ind o s sent fun _ => enterDeparted_counts sent
  sent _ _ _ h _ := h.setLine h.line
  echo s n h hn := h.setLine ⟨h.line.1, h.line.2.1, h.line.2.2.1, h.line.2.2.2.1,
    hn.elim id (·.trans_le h.line.2.2.2.2)⟩
  takeEcho kind good s h := controllerTakeEcho_ind kind good s (fun _ => enterListen_counts h)
    (fun _ _ _ => setCtrl_counts h _) (fun _ => reintegrate_counts h) h
  nextSlot _ _ _ h _ := setCtrl_counts h _
  controllerAct b _ h := controllerBoundary_counts h b
  timeAct b _ h := h.keep (by simp) (by simp) (by simp) (by simpa using h.journal)
  membershipAct b _ h := h.keep (by simp) (by simp) (by simp) (by simpa using h.journal)
  outboundAct s h := outboundRoundEnd_ind s (fun test _ => removeWhile_counts h test) h
  journalAct s h := journalBoundary_ind s
    (fun c => ⟨h.line, h.queue, h.receipts, Journal.countsInRange_stable.release c _ h.journal⟩) h
  correctionReport r s h := takeCorrectionReport_ind r s (fun _ _ _ => setCtrl_counts h _) (fun _ => reintegrate_counts h) h
  viewReport s h := takeViewReport_ind s (fun _ => reintegrate_counts h) h
  coldstart _ h _ := enterColdstart_counts h
  sample levels _ h _ := takeSample_counts h levels

/-! ## The pin -/

theorem command_timer (code : Byte) (args : List Byte) (s : State) : (commandOf code args s).2.port.timer = s.port.timer := by
  refine commandOf_state_ind (P := fun t => t.port.timer = s.port.timer) s rfl ?_ (fun _ _ => rfl)
    (fun _ _ _ => (enqueue_grows _ _).timer) (fun _ => rfl) rfl (fun _ _ _ => rfl) (fun _ _ => rfl)
    (fun _ _ => (enterListen_grows _).timer) (fun _ => rfl) (fun _ => (enterDeparted_grows s).timer)
    (fun _ _ => (enterListen_grows _).timer) (fun _ _ => (enterListen_grows _).timer) args
  exact (holdPersistent_grows _).timer

/-- A command pins the head exactly if it is a READ_RECORD that answers OK (R139). -/
theorem command_pinned (code : Byte) (args : List Byte) {s : State} (unpinned : s.journal.pinned = false) :
    (commandOf code args s).2.journal.pinned =
      (code == 0x10 && (commandOf code args s).1.status.code == Status.ok.code) := by
  by_cases hc : code = 0x10
  · subst hc
    show (readRecordCommand s).2.journal.pinned = (true && (readRecordCommand s).1.status.code == Status.ok.code)
    unfold readRecordCommand
    split
    · rw [unpinned]; rfl
    · rfl
  · rw [(Journal.pinned_stable false).command unpinned unpinned unpinned (fun e => absurd e hc)]
    rw [beq_eq_false_iff_ne.mpr hc, Bool.false_and]

section Pin

variable {s t : State} (h : s.PinKept)
include h

/-- An operation beside the Host Port leaves the pin and, of the port, all but the attention set. -/
theorem State.PinKept.keep (grows : AttentionGrows s t) (pinned : t.journal.pinned = s.journal.pinned)
    (pins : t.pins.resetLow = s.pins.resetLow) : t.PinKept where
  pin := by rw [pinned, grows.readingRecord, h.pin]
  timer := by rw [grows.timer, grows.transaction, h.timer]
  bits := by rw [grows.bitCount]; exact h.bits
  inReset low := grows.transaction.trans (h.inReset (pins ▸ low))

theorem State.PinKept.noReset (busy : s.port.transaction ≠ .idle) : s.pins.resetLow = false :=
  Bool.eq_false_of_not_eq_true fun low => busy (h.inReset low)

theorem State.PinKept.pinned_of (other : s.port.transaction ≠ .response) : s.journal.pinned = false := by
  simp [h.pin, HostPort.readingRecord, other]

theorem endTransaction_pinKept : (endTransaction s).PinKept where
  pin := by
    have unread : (endTransaction s).port.readingRecord = false := rfl
    rw [unread]
    simp only [endTransaction]
    split
    · split
      · simp [Journal.completeRead, h.pin, *]
      · rfl
    · rw [h.pin]; exact Bool.eq_false_of_not_eq_true ‹_›
  timer := rfl
  bits := by simp [endTransaction]
  inReset _ := rfl

theorem timeoutTransaction_pinKept (busy : s.port.transaction = .command ∨ s.port.transaction = .response) :
    (timeoutTransaction s).PinKept where
  pin := by
    have unread : (timeoutTransaction s).port.readingRecord = false := rfl
    rw [unread]
    simp only [timeoutTransaction, raise_keeps]
    split
    · rfl
    · rw [h.pin]; exact Bool.eq_false_of_not_eq_true ‹_›
  timer := rfl
  bits := h.bits
  inReset low := by
    have low : s.pins.resetLow = true := by simpa [timeoutTransaction] using low
    rw [h.noReset (by rcases busy with e | e <;> simp [e])] at low
    simp at low

theorem answer_pinKept (code : Byte) (args : List Byte) (command : s.port.transaction = .command) :
    (answerWith (code :: args) (commandOf code args) s).PinKept where
  pin := by
    show (commandOf code args s).2.journal.pinned = _
    rw [command_pinned code args (h.pinned_of (by simp [command])), answerWith_eq]
    simp [State.answering, HostPort.readingRecord]
  timer := by
    show (commandOf code args s).2.port.timer.isSome = _
    rw [command_timer, h.timer, command]
    rfl
  bits := Nat.zero_le _
  inReset low := by
    have pins := command_pins code args s
    rw [answerWith_eq] at low
    have low : s.pins.resetLow = true := pins ▸ low
    rw [h.noReset (by simp [command])] at low
    simp at low

theorem passTime_pinKept (dt : Nat) : (passTime dt s).PinKept :=
  ⟨h.pin, by simpa [passTime] using h.timer, h.bits, h.inReset⟩

theorem controllerFrame_pinKept (f : Frame) (localAt : Nat) : (controllerTakeFrame f localAt s).PinKept :=
  h.keep (controllerTakeFrame_grows f localAt s) ((Journal.pinned_stable _).controllerTakeFrame rfl f localAt)
    (by simp)

end Pin

theorem inReset_pinKept (s : State) : s.inReset.PinKept := ⟨rfl, rfl, Nat.zero_le _, fun _ => rfl⟩

theorem endReset_pinKept (straps : BitVec 4) {s : State} (h : s.PinKept) (low : s.pins.resetLow = true) :
    (endReset straps s).PinKept where
  pin := by
    rw [show (endReset straps s).journal.pinned = false from h.pinned_of (by simp [h.inReset low])]
    show false = HostPort.readingRecord { s.port with transaction := if s.pins.selnLow then .discard else .idle }
    cases s.pins.selnLow <;> rfl
  timer := by
    have stopped : s.port.timer.isSome = false := by rw [h.timer, h.inReset low]; rfl
    show s.port.timer.isSome = _
    rw [stopped]
    simp only [endReset]
    cases s.pins.selnLow <;> rfl
  bits := h.bits
  inReset e := by simp [endReset] at e

theorem pinKept_kept : Kept State.PinKept where
  inReset s _ := inReset_pinKept s
  endReset straps _ h low := endReset_pinKept straps h low
  select _ _ h := ⟨h.pin, h.timer, h.bits, h.inReset⟩
  begin _ h idle noReset := ⟨h.pinned_of (by simp [idle]), rfl, Nat.zero_le _, fun low => by simp [noReset] at low⟩
  endTransaction _ h _ := endTransaction_pinKept h
  timeout _ h busy := timeoutTransaction_pinKept h busy
  answer code args _ h command _ := answer_pinKept h code args command
  bit _ _ _ h n _ := ⟨h.pin, h.timer, n, h.inReset⟩
  receive s bytes h command := by
    have unread : HostPort.readingRecord { s.port with received := bytes } = false := by
      simp [HostPort.readingRecord, show s.port.transaction ≠ .response by simp [command]]
    exact ⟨(h.pinned_of (by simp [command])).trans unread.symm, h.timer, h.bits, h.inReset⟩
  send _ h _ := ⟨h.pin, h.timer, h.bits, h.inReset⟩
  pass dt _ h := passTime_pinKept h dt
  receiver _ _ h _ := h.keep (.of_port rfl) rfl rfl
  valid _ h := h.keep (.of_port rfl) rfl rfl
  garbled _ h := h.keep (.of_port rfl) rfl rfl
  foreign _ h := h.keep (.of_port rfl) rfl rfl
  offSlot _ h := h.keep (.of_port rfl) rfl rfl
  takeGarbled s h := h.keep (controllerTakeGarbled_grows s) (by simp) (by simp)
  takeForeign _ h := h.keep (.of_port (by simp)) (by simp) (by simp)
  controllerFrame f localAt _ h := controllerFrame_pinKept h f localAt
  timeFrame _ _ _ h := h.keep (.of_port (by simp)) (by simp) (by simp)
  membershipFrame f s h := h.keep (membershipTakeFrame_grows f s) (by simp) (by simp)
  outboundFrame f s h := h.keep (outboundTakeFrame_grows f s) ((Journal.pinned_stable _).outboundTakeFrame rfl f) (by simp)
  receiptFrame integrating f s h _ := h.keep (receiptTakeFrame_grows integrating f s)
    ((Journal.pinned_stable _).receiptTakeFrame rfl integrating f) (by simp)
  startSending _ _ _ h _ := h.keep (.of_port rfl) rfl rfl
  sofMark s o _ h _ := h.keep (sendContent_grows o s) ((Journal.pinned_stable _).sendContent rfl o) (by simp)
  sent _ _ _ h _ := h.keep (.of_port rfl) rfl rfl
  echo _ _ h _ := h.keep (.of_port rfl) rfl rfl
  takeEcho kind good s h := h.keep (controllerTakeEcho_grows kind good s) (by simp) (by simp)
  nextSlot _ _ _ h _ := h.keep (.of_port rfl) rfl rfl
  controllerAct b s h := h.keep (controllerBoundary_grows b s) ((Journal.pinned_stable _).controllerBoundary rfl b) (by simp)
  timeAct b s h := h.keep (timeRoundEnd_grows b s) (by simp) (by simp)
  membershipAct b s h := h.keep (membershipRoundEnd_grows b s) (by simp) (by simp)
  outboundAct s h := h.keep (outboundRoundEnd_grows s) ((Journal.pinned_stable _).outboundRoundEnd rfl) (by simp)
  journalAct _ h := h.keep (.of_port (by simp)) ((Journal.pinned_stable _).journalBoundary rfl) (by simp)
  correctionReport r s h := h.keep (takeCorrectionReport_grows r s) (by simp) (by simp)
  viewReport s h := h.keep (takeViewReport_grows s) (by simp) (by simp)
  coldstart s h _ := h.keep (enterColdstart_grows s) (by simp) (by simp)
  sample levels s h _ := h.keep (takeSample_grows levels s) ((Journal.pinned_stable _).takeSample rfl levels) (by simp)

/-! ## Every step -/

/-- Settles O57: each of the four forms is one that every shared operation keeps, and none of them looks at the waiting
commands. -/
theorem everyStepKeepsBlocks : Obligations.EveryStepKeepsBlocks := fun s t table own counters pin hstep =>
  ⟨tableKept_kept.step (fun _ _ h => h.keep rfl rfl) table hstep,
    ownUnused_kept.step (fun _ _ h => h.keep ⟨rfl, rfl, rfl, rfl, .inl rfl⟩ rfl rfl rfl rfl) own hstep,
    t.countersInRange_iff.mpr (counts_kept.step (fun _ _ h => ⟨h.line, h.queue, h.receipts, h.journal⟩)
      (s.countersInRange_iff.mp counters) hstep),
    pinKept_kept.step (fun _ _ h => ⟨h.pin, h.timer, h.bits, h.inReset⟩) pin hstep⟩

end Sys2Proof.Machine
end

section
/-! SUPPORT. The records the Journal holds, as one list up to order and up to the marks LATE and FORCED: what each
operation of the Journal makes of that list. -/

namespace Sys2Proof.Machine

/-! ## Lists of records up to order and marks -/

/-- A record without the marks that the Journal sets on it, LATE and FORCED (R123). -/
def JournalRecord.unmarked (r : JournalRecord) : JournalRecord := { r with late := false, forced := false }

/-- Every record of the one list stands, up to its marks, in the other, and as often at least. -/
def RecordsWithin (l m : List JournalRecord) : Prop :=
  (l.map JournalRecord.unmarked).Subperm (m.map JournalRecord.unmarked)

theorem RecordsWithin.of_subperm {l m : List JournalRecord} (h : l.Subperm m) : RecordsWithin l m := by
  obtain ⟨l', perm, sub⟩ := h
  exact ⟨l'.map _, perm.map _, sub.map _⟩

theorem RecordsWithin.refl (l : List JournalRecord) : RecordsWithin l l := List.Subperm.refl _

theorem RecordsWithin.trans {l m n : List JournalRecord} (h : RecordsWithin l m) (k : RecordsWithin m n) :
    RecordsWithin l n := List.Subperm.trans h k

theorem RecordsWithin.cons {l m : List JournalRecord} (r : JournalRecord) (h : RecordsWithin l m) :
    RecordsWithin (r :: l) (r :: m) := by
  simpa [RecordsWithin] using (List.subperm_cons r.unmarked).mpr h

/-- Marks count for nothing. -/
theorem RecordsWithin.marked {l : List JournalRecord} {mark : JournalRecord → JournalRecord}
    (h : ∀ r, (mark r).unmarked = r.unmarked) : RecordsWithin (l.map mark) l := by
  simp [RecordsWithin, Function.comp_def, h, List.Subperm.refl]

theorem RecordsWithin.append {l l' m m' : List JournalRecord} (h : RecordsWithin l m) (h' : RecordsWithin l' m') :
    RecordsWithin (l ++ l') (m ++ m') := by
  simpa [RecordsWithin] using List.Subperm.append h h'

theorem RecordsWithin.mem {l m : List JournalRecord} (h : RecordsWithin l m) {r : JournalRecord} (hr : r ∈ l) :
    ∃ x ∈ m, x.unmarked = r.unmarked :=
  List.mem_map.mp (List.Subperm.subset h (List.mem_map_of_mem hr))

theorem List.Pairwise.of_subperm {α : Type} {R : α → α → Prop} {l m : List α} (h : l.Subperm m)
    (symmetric : ∀ {a b}, R a b → R b a) (p : m.Pairwise R) : l.Pairwise R := by
  obtain ⟨l', perm, sub⟩ := h
  exact (perm.pairwise_iff symmetric).mp (p.sublist sub)

/-- A symmetric relation that reads no mark holds in the smaller list too. -/
theorem RecordsWithin.pairwise {R : JournalRecord → JournalRecord → Prop} {l m : List JournalRecord}
    (h : RecordsWithin l m) (symmetric : ∀ {a b}, R a b → R b a) (marks : ∀ a b, R a.unmarked b.unmarked ↔ R a b)
    (p : m.Pairwise R) : l.Pairwise R := by
  have p' : (m.map JournalRecord.unmarked).Pairwise R := List.Pairwise.map _ (fun a b => (marks a b).mpr) p
  have l' := List.Pairwise.of_subperm h symmetric p'
  rw [List.pairwise_map] at l'
  exact l'.imp fun {a b} => (marks a b).mp

theorem filter_append_perm' (p : JournalRecord → Bool) (l m : List JournalRecord) :
    (m ++ l.filter p ++ l.filter fun r => !p r).Perm (m ++ l) := by
  rw [List.append_assoc]
  exact (List.filter_append_perm p l).append_left m

/-! ## The operations -/

section

variable (j : Journal)

theorem placeByKey_perm (r : JournalRecord) (l : List JournalRecord) : (placeByKey r l).Perm (r :: l) := by
  induction l with
  | nil => exact .refl _
  | cons x xs ih =>
    unfold placeByKey
    split
    · exact .refl _
    · exact (ih.cons x).trans (.swap r x xs)

theorem Journal.place_within (r : JournalRecord) : RecordsWithin (j.place r).records (r :: j.records) := by
  unfold Journal.place Journal.records
  split
  · have marked : RecordsWithin (j.released ++ [{ r with late := true }] ++ j.unreleased)
        (j.released ++ [r] ++ j.unreleased) := by
      simp [RecordsWithin, JournalRecord.unmarked, List.Subperm.refl]
    exact marked.trans (.of_subperm (by simpa using (List.perm_middle (l₁ := j.released)).subperm))
  · exact .of_subperm (((placeByKey_perm r _).append_left _).trans List.perm_middle).subperm

theorem Journal.discardReleased_within {k : Journal} (h : j.discardReleased = some k) :
    RecordsWithin k.records j.records := by
  refine .of_subperm (List.Sublist.subperm ?_)
  unfold Journal.discardReleased at h
  split at h <;> simp only [Option.some.injEq, reduceCtorEq] at h <;> subst h <;> rename_i e <;>
    simp [Journal.records, e]

theorem Journal.forcedRelease_within : RecordsWithin j.forcedRelease.records j.records := by
  unfold Journal.forcedRelease
  split
  · exact .refl _
  · rename_i first rest _
    unfold Journal.records
    have marked : RecordsWithin ((j.unreleased.filter fun r => r.time == first.time).map fun r =>
        { r with forced := true }) (j.unreleased.filter fun r => r.time == first.time) := .marked fun _ => rfl
    refine (((RecordsWithin.refl j.released).append marked).append (.refl _)).trans (.of_subperm ?_)
    exact (filter_append_perm' (fun r => r.time == first.time) j.unreleased j.released).subperm

theorem Journal.discardByKey_within (r : JournalRecord) : RecordsWithin (j.discardByKey r).records (r :: j.records) := by
  refine iteInduction (motive := fun k : Journal => RecordsWithin k.records (r :: j.records)) (fun _ => ?_) fun _ => ?_
  · refine (Journal.forcedRelease_within _).trans ((Journal.place_within _ r).trans (.cons r (.of_subperm ?_)))
    exact List.Sublist.subperm ((List.dropLast_sublist _).append_left _)
  · exact (Journal.forcedRelease_within _).trans (.of_subperm (List.Sublist.subperm (List.sublist_cons_self r j.records)))

/-- An insertion drops a record whose identity is held, and else holds nothing but the records held and the new one. -/
theorem Journal.insert_within (r : JournalRecord) (h : j.holds r = false) :
    RecordsWithin (j.insert r).records (r :: j.records) := by
  unfold Journal.insert Journal.admitRecord
  simp only [h, Bool.false_eq_true, ↓reduceIte]
  split
  · split
    case h_1 k hk => exact (k.place_within r).trans (.cons r (j.discardReleased_within hk))
    case h_2 => exact j.discardByKey_within r
  · exact j.place_within r

theorem Journal.releaseStep_within (c : CommonTime) : RecordsWithin (j.releaseStep c).records j.records := by
  have through (h : CommonTime) : RecordsWithin (j.releaseThrough h).records j.records :=
    .of_subperm (filter_append_perm' (fun r => r.time.notAfter h) j.unreleased j.released).subperm
  unfold Journal.releaseStep
  split <;> exact through _

theorem Journal.finalRelease_within : RecordsWithin j.finalRelease.records j.records := by
  have marked : RecordsWithin (j.unreleased.map fun r => { r with forced := true }) j.unreleased := .marked fun _ => rfl
  unfold Journal.records
  rw [finalRelease_released, show j.finalRelease.unreleased = [] by rw [finalRelease_rest], List.append_nil]
  exact (RecordsWithin.refl _).append marked

theorem Journal.completeRead_within : RecordsWithin j.completeRead.records j.records := by
  unfold Journal.completeRead
  split
  · exact .of_subperm (List.Sublist.subperm ((List.tail_sublist _).append_right _))
  · exact .refl _

end

/-! ## The taking of a session -/

/-- The awaiting records are told apart by their sequence, and no two records share an identity (R124, R125, R127). -/
def JournalRecord.ApartFrom (a b : JournalRecord) : Prop :=
  ¬ a.identityShared b ∧ (a.awaiting = true → b.awaiting = true → a.sequence ≠ b.sequence)

theorem JournalRecord.identityShared_symm {a b : JournalRecord} (h : a.identityShared b) : b.identityShared a :=
  ⟨h.2.2.1 ▸ h.1, h.2.1.symm, h.2.2.1.symm, h.2.2.2.symm⟩

theorem JournalRecord.ApartFrom.symm {a b : JournalRecord} (h : a.ApartFrom b) : b.ApartFrom a :=
  ⟨fun e => h.1 (JournalRecord.identityShared_symm e), fun hb ha => (h.2 ha hb).symm⟩

theorem JournalRecord.sameIdentity_iff (a b : JournalRecord) : a.sameIdentity b = true ↔ a.identityShared b := by
  simp [JournalRecord.sameIdentity, JournalRecord.identityShared, and_assoc, Option.isSome_iff_ne_none]

theorem Journal.mem_sequencesUnder (j : Journal) (own : StationNo) (x : Session) (q : Sequence) :
    q ∈ j.sequencesUnder own x ↔
      ∃ y ∈ j.records, y.awaiting = false ∧ y.origin = own ∧ y.session = some x ∧ y.sequence = q := by
  simp [Journal.sequencesUnder, and_assoc]

theorem Journal.pinnedTaking_iff (j : Journal) (q : Sequence) : j.pinnedTaking = some q ↔
    j.pinned = true ∧ ∃ head ∈ j.released.head?, head.awaiting = true ∧ head.sequence = q := by
  unfold Journal.pinnedTaking
  cases j.pinned <;> cases j.released <;> simp

/-- The records that stand when a session is taken: the pinned head, and those that stay (R127). -/
theorem Journal.takeSession_records (j : Journal) (own : StationNo) (x : Session) : ∃ kept : List JournalRecord,
    (j.takeSession own x).records = kept.map (JournalRecord.takeSession x) ∧ kept.Sublist j.records ∧
      ∀ r ∈ kept, j.staysAt own x r = true ∨ (j.pinned = true ∧ j.released.head? = some r) := by
  unfold Journal.takeSession Journal.records
  dsimp only
  split
  case h_1 head rest pinned released =>
    refine ⟨head :: (rest.filter (j.staysAt own x) ++ j.unreleased.filter (j.staysAt own x)), by simp, ?_, ?_⟩
    · rw [released]
      exact ((List.filter_sublist.append List.filter_sublist)).cons_cons head
    · intro r hr
      rcases List.mem_cons.mp hr with rfl | hr
      · exact .inr ⟨pinned, by simp [released]⟩
      · rcases List.mem_append.mp hr with hr | hr <;> exact .inl (List.mem_filter.mp hr).2
  case h_2 =>
    refine ⟨j.released.filter (j.staysAt own x) ++ j.unreleased.filter (j.staysAt own x), by simp, ?_, ?_⟩
    · exact List.filter_sublist.append List.filter_sublist
    · intro r hr
      rcases List.mem_append.mp hr with hr | hr <;> exact .inl (List.mem_filter.mp hr).2

/-- An awaiting record and one that holds the session already never both stand (R127). -/
theorem Journal.takeSession_conflict {j : Journal} {own : StationNo} {x : Session} {a b : JournalRecord}
    (ha : j.staysAt own x a = true ∨ (j.pinned = true ∧ j.released.head? = some a))
    (hb : j.staysAt own x b = true ∨ (j.pinned = true ∧ j.released.head? = some b)) (mem : b ∈ j.records)
    (awaits : a.awaiting = true) (holds : b.awaiting = false) (origin : b.origin = own) (session : b.session = some x) :
    a.sequence ≠ b.sequence := by
  intro same
  have heldAlready : a.sequence ∈ j.sequencesUnder own x :=
    (j.mem_sequencesUnder own x _).mpr ⟨b, mem, holds, origin, session, same.symm⟩
  have head : j.pinned = true ∧ j.released.head? = some a := by
    rcases ha with stays | head
    · simp [Journal.staysAt, awaits, heldAlready] at stays
    · exact head
  rcases hb with stays | ⟨-, hb⟩
  · have taking : j.pinnedTaking = some b.sequence :=
      (j.pinnedTaking_iff _).mpr ⟨head.1, a, head.2, awaits, same⟩
    simp [Journal.staysAt, holds, origin, session, taking] at stays
  · have : a = b := by simpa [hb] using head.2.symm
    simp [← this, awaits] at holds

theorem JournalRecord.takeSession_of_awaiting {r : JournalRecord} (h : r.awaiting = true) (x : Session) :
    r.takeSession x = { r with session := some x, awaiting := false } := by simp [JournalRecord.takeSession, h]

theorem JournalRecord.takeSession_of_not {r : JournalRecord} (h : r.awaiting = false) (x : Session) :
    r.takeSession x = r := by simp [JournalRecord.takeSession, h]

/-- After a session is taken no two records share an identity (R127). -/
theorem Journal.takeSession_unique {j : Journal} (own : StationNo) (x : Session)
    (apart : j.records.Pairwise JournalRecord.ApartFrom)
    (ownOnes : ∀ r ∈ j.records, r.awaiting = true → r.origin = own) :
    (j.takeSession own x).records.Pairwise fun a b => ¬ a.identityShared b := by
  obtain ⟨kept, records, sub, stand⟩ := j.takeSession_records own x
  rw [records, List.pairwise_map]
  refine (List.Pairwise.and_mem.mp (apart.sublist sub)).imp fun {a b} ⟨memA, memB, apart⟩ => ?_
  have inA := sub.subset memA
  have inB := sub.subset memB
  rintro ⟨holds, origin, session, sequence⟩
  cases ha : a.awaiting <;> cases hb : b.awaiting <;>
    simp only [JournalRecord.takeSession, ha, hb, ↓reduceIte, Bool.false_eq_true] at holds origin session sequence
  case false.false => exact apart.1 ⟨holds, origin, session, sequence⟩
  case true.true => exact apart.2 ha hb sequence
  case true.false =>
    exact Journal.takeSession_conflict (stand a memA) (stand b memB) inB ha hb (origin ▸ ownOnes a inA ha)
      session.symm sequence
  case false.true =>
    exact Journal.takeSession_conflict (stand b memB) (stand a memA) inA hb ha (origin ▸ ownOnes b inB hb)
      session sequence.symm

theorem Journal.takeSession_not_awaiting (j : Journal) (own : StationNo) (x : Session) :
    ∀ r ∈ (j.takeSession own x).records, r.awaiting = false := by
  obtain ⟨kept, records, -, -⟩ := j.takeSession_records own x
  rw [records]
  intro r hr
  obtain ⟨y, -, rfl⟩ := List.mem_map.mp hr
  unfold JournalRecord.takeSession
  split
  · rfl
  · exact Bool.eq_false_of_not_eq_true ‹_›

end Sys2Proof.Machine
end

section
/-! SUPPORT. Every step keeps the form of the Journal and of the Outbound Queue (Journal.Ordered, State.Numbered,
State.Identified). -/

namespace Sys2Proof.Machine

/-! ## The queue's form -/

/-- The form of a list of queued records, up to the sequence the next one takes, while the station holds this session
(R94 to R96). -/
structure QueueForm (records : List QueuedRecord) (next : Sequence) (session : Option Session) : Prop where
  room : records.length ≤ 32
  consecutive : ∀ k (h : k < records.length),
    records[k].sequence + BitVec.ofNat 15 (records.length - k) = next
  announcedFirst : records.Pairwise fun a b => b.announced = true → a.announced = true
  session : ∀ r ∈ records, r.session = session

theorem State.numbered_iff (s : State) : s.Numbered ↔ QueueForm s.queue.records s.queue.nextSequence s.ctrl.session :=
  ⟨fun h => ⟨h.room, h.consecutive, h.announcedFirst, h.session⟩,
    fun h => ⟨h.room, h.consecutive, h.announcedFirst, h.session⟩⟩

theorem QueueForm.nil (next : Sequence) (session : Option Session) : QueueForm [] next session :=
  ⟨Nat.zero_le _, fun _ h => by simp at h, .nil, fun _ h => by simp at h⟩

section

variable {records : List QueuedRecord} {next : Sequence} {session : Option Session}
  (h : QueueForm records next session)
include h

/-- A removal from the head keeps the form. -/
theorem QueueForm.suffix {rest : List QueuedRecord} (suffix : rest <:+ records) : QueueForm rest next session := by
  obtain ⟨gone, rfl⟩ := suffix
  refine ⟨?_, fun k hk => ?_, h.announcedFirst.sublist (List.sublist_append_right _ _),
    fun r hr => h.session r (List.mem_append_right _ hr)⟩
  · have := h.room; simp at this; omega
  · have at_ := h.consecutive (gone.length + k) (by simpa using hk)
    rw [List.getElem_append_right (Nat.le_add_right _ _)] at at_
    simpa [Nat.add_sub_add_left] using at_

/-- A record with the next sequence and the current session joins the tail. -/
theorem QueueForm.append (room : records.length < 32) {r : QueuedRecord} (sequence : r.sequence = next)
    (current : r.session = session) (fresh : r.announced = false) : QueueForm (records ++ [r]) (next + 1) session := by
  refine ⟨by simpa using room, fun k hk => ?_, ?_, fun x hx => ?_⟩
  · by_cases hlast : k < records.length
    · rw [List.getElem_append_left hlast, ← h.consecutive k hlast, List.length_append, List.length_singleton,
        Nat.sub_add_comm hlast.le, BitVec.add_assoc]
      congr 1
      exact BitVec.ofNat_add ..
    · have last : k = records.length := by simp at hk; omega
      subst last
      simp [sequence]
  · refine List.pairwise_append.mpr ⟨h.announcedFirst, List.pairwise_singleton _ _, fun a _ b hb hm => ?_⟩
    rw [List.mem_singleton.mp hb, fresh] at hm
    simp at hm
  · rcases List.mem_append.mp hx with hx | hx
    · exact h.session x hx
    · rw [List.mem_singleton.mp hx, current]

/-- Records that take a session keep their sequences and their marks. -/
theorem QueueForm.map {f : QueuedRecord → QueuedRecord} {session' : Option Session}
    (sequence : ∀ r, (f r).sequence = r.sequence) (announced : ∀ r, (f r).announced = r.announced)
    (current : ∀ r ∈ records, (f r).session = session') : QueueForm (records.map f) next session' := by
  refine ⟨by simpa using h.room, fun k hk => ?_, ?_, fun r hr => ?_⟩
  · simpa [sequence] using h.consecutive k (by simpa using hk)
  · exact List.Pairwise.map _ (fun a b hab => by rwa [announced, announced]) h.announcedFirst
  · obtain ⟨x, hx, rfl⟩ := List.mem_map.mp hr
    exact current x hx

/-- The selection of a BEACON marks a run at the head (R97). -/
theorem QueueForm.announce {q : OutboundQueue} (hq : q.records = records) : QueueForm q.announce.records next session := by
  have records_eq : q.announce.records = (records.take 4).map (fun r => { r with announced := true }) ++ records.drop 4 := by
    rw [← hq]; rfl
  have length : q.announce.records.length = records.length := by rw [records_eq]; simp; omega
  have sequences : ∀ k (hk : k < q.announce.records.length) (hk' : k < records.length),
      q.announce.records[k].sequence = records[k].sequence := by
    intro k hk hk'
    by_cases front : k < 4
    · simp only [records_eq]
      rw [List.getElem_append_left (by simp; omega)]
      simp
    · simp only [records_eq]
      rw [List.getElem_append_right (by simp; omega)]
      have : min 4 records.length = 4 := by omega
      simp [this, Nat.add_sub_cancel' (Nat.le_of_not_lt front)]
  refine ⟨by rw [length]; exact h.room, fun k hk => ?_, ?_, fun r hr => ?_⟩
  · have hk' : k < records.length := length ▸ hk
    rw [sequences k hk hk', length]
    exact h.consecutive k hk'
  · rw [records_eq]
    refine List.pairwise_append.mpr ⟨?_, h.announcedFirst.sublist (List.drop_sublist _ _), fun a ha _ _ _ => ?_⟩
    · exact List.pairwise_map.mpr (List.pairwise_of_forall fun _ _ _ => rfl)
    · obtain ⟨x, -, rfl⟩ := List.mem_map.mp ha
      rfl
  · rw [records_eq] at hr
    rcases List.mem_append.mp hr with hr | hr
    · obtain ⟨x, hx, rfl⟩ := List.mem_map.mp hr
      exact h.session x (List.mem_of_mem_take hx)
    · exact h.session r (List.mem_of_mem_drop hr)

end

/-! ## Both forms -/

/-- The station states after an end of running, in which the numbering may stand beside an emptied queue. -/
def StationState.Ended (st : StationState) : Prop := st = .departed ∨ st = .faulted

/-- What State.Numbered and State.Identified say beside what they say of a reset. -/
structure State.RecordForm (s : State) : Prop where
  queue : QueueForm s.queue.records s.queue.nextSequence s.ctrl.session
  apart : s.journal.records.Pairwise JournalRecord.ApartFrom
  awaiting : ∀ r ∈ s.journal.records, r.awaiting = true →
    r.origin = s.own ∧ r.session = none ∧ r.sequence.toNat < s.queue.nextSequence.toNat ∧ s.ctrl.session = none
  numbering : s.ctrl.session = none → s.ctrl.station.Ended ∨ s.queue.nextSequence.toNat = s.queue.records.length
  active : s.ctrl.station = .active → s.ctrl.session ≠ none

/-- During a reset the station is in CONFIG, the port IDLE and the Journal empty. -/
def State.ResetForm (s : State) : Prop := s.pins.resetLow = true →
  s.ctrl.station = .config ∧ s.port.transaction = .idle ∧ s.journal.released = [] ∧ s.journal.unreleased = []

theorem State.identified_iff (s : State) : s.Numbered ∧ s.Identified ↔ s.RecordForm ∧ s.ResetForm := by
  rw [State.numbered_iff]
  constructor
  · rintro ⟨n, i⟩
    exact ⟨⟨n, List.Pairwise.and i.unique i.apart, i.awaiting, fun e => or_assoc.mpr (i.numbering e), i.active⟩, i.inReset⟩
  · rintro ⟨f, r⟩
    exact ⟨f.queue, ⟨f.apart.imp fun h => h.1, f.awaiting, f.apart.imp fun h => h.2,
      fun e => or_assoc.mp (f.numbering e), f.active, r⟩⟩

theorem RecordsWithin.apart {l m : List JournalRecord} (h : RecordsWithin l m)
    (p : m.Pairwise JournalRecord.ApartFrom) : l.Pairwise JournalRecord.ApartFrom :=
  h.pairwise JournalRecord.ApartFrom.symm (fun _ _ => Iff.rfl) p

section Form

variable {s t : State} (h : s.RecordForm)
include h

/-- Both forms stand where the Journal holds nothing new and the queue's records, sequence and session stand. -/
theorem State.RecordForm.keep (journal : RecordsWithin t.journal.records s.journal.records) (own : t.own = s.own)
    (records : t.queue.records = s.queue.records) (next : t.queue.nextSequence = s.queue.nextSequence)
    (session : t.ctrl.session = s.ctrl.session) (station : t.ctrl.station = s.ctrl.station) : t.RecordForm where
  queue := by rw [records, next, session]; exact h.queue
  apart := journal.apart h.apart
  awaiting r hr ha := by
    obtain ⟨x, hx, same⟩ := journal.mem hr
    have field {α : Type} (p : JournalRecord → α) (marks : ∀ r, p r.unmarked = p r) : p r = p x := by
      rw [← marks r, ← same, marks]
    have := h.awaiting x hx (by rwa [← field (·.awaiting) fun _ => rfl])
    rwa [field (·.origin) fun _ => rfl, field (·.session) fun _ => rfl, field (·.sequence) fun _ => rfl, own, next, session]
  numbering e := by rw [station, next, records]; exact h.numbering (session ▸ e)
  active e := by rw [session]; exact h.active (station ▸ e)

/-- A change of station state that does not leave DEPARTED or FAULT and does not enter ACTIVE. -/
theorem State.RecordForm.move (journal : RecordsWithin t.journal.records s.journal.records) (own : t.own = s.own)
    (records : t.queue.records = s.queue.records) (next : t.queue.nextSequence = s.queue.nextSequence)
    (session : t.ctrl.session = s.ctrl.session) (running : s.ctrl.station.Ended → t.ctrl.station.Ended)
    (idle : t.ctrl.station ≠ .active) : t.RecordForm := by
  let u := t.setCtrl { t.ctrl with station := s.ctrl.station }
  have kept : u.RecordForm := h.keep journal own records next session rfl
  exact ⟨kept.queue, kept.apart, kept.awaiting, fun e => (kept.numbering e).imp running id, fun e => absurd e idle⟩

theorem State.RecordForm.same (journal : t.journal = s.journal) (settings : t.settings = s.settings)
    (queue : t.queue = s.queue) (ctrl : t.ctrl = s.ctrl) : t.RecordForm :=
  h.keep (journal ▸ .refl _) (by rw [State.own, settings]; rfl) (by rw [queue]) (by rw [queue]) (by rw [ctrl]) (by rw [ctrl])

/-- A record is inserted that awaits no session, or that is an own one apart from those which do. -/
theorem State.RecordForm.insert (r : JournalRecord) (new : r.awaiting = true → r.origin = s.own ∧ r.session = none ∧
      r.sequence.toNat < s.queue.nextSequence.toNat ∧ s.ctrl.session = none ∧
      ∀ x ∈ s.journal.records, x.awaiting = true → r.sequence ≠ x.sequence) : (journalInsert r s).RecordForm := by
  by_cases held : s.journal.holds r = true
  · have same : (journalInsert r s).journal = s.journal := by
      rw [journalInsert_journal, Journal.insert, if_pos held]
    exact h.same same (by simp) (by simp) (by simp)
  · have unheld := Bool.eq_false_of_not_eq_true held
    -- the state that holds the new record in front of the others
    let u := s.setJournal { s.journal with released := r :: s.journal.released }
    have joined : u.RecordForm := by
      refine ⟨h.queue, ?_, fun x hx ha => ?_, h.numbering, h.active⟩
      · refine List.Pairwise.cons (fun x hx => ⟨fun shared => held ?_, fun ha hb => ?_⟩) h.apart
        · exact List.any_eq_true.mpr ⟨x, hx, (r.sameIdentity_iff x).mpr shared⟩
        · exact (new ha).2.2.2.2 x hx hb
      · rcases List.mem_cons.mp hx with rfl | hx
        · obtain ⟨origin, session, sequence, none, -⟩ := new ha
          exact ⟨origin, session, sequence, none⟩
        · exact h.awaiting x hx ha
    refine joined.keep ?_ (by simp [State.own]; rfl) (by simp; rfl) (by simp; rfl) (by simp; rfl) (by simp; rfl)
    rw [journalInsert_journal]
    exact s.journal.insert_within r unheld

/-- A record joins a queue that has room. -/
theorem State.RecordForm.enqueue (d : Draft) (room : s.queue.records.length < 32)
    (running : s.ctrl.session = none → ¬ s.ctrl.station.Ended) : (enqueue d s).RecordForm := by
  have counted : s.ctrl.session = none → s.queue.nextSequence.toNat = s.queue.records.length := fun none =>
    (h.numbering none).resolve_left (running none)
  have advanced : s.ctrl.session = none → (s.queue.nextSequence + 1).toNat = s.queue.records.length + 1 := fun none => by
    rw [BitVec.toNat_add, counted none]
    exact Nat.mod_eq_of_lt (Nat.lt_of_le_of_lt (Nat.succ_le_of_lt room) (by decide))
  have queued : (s.setQueue { s.queue with
      records := s.queue.records ++ [s.queuedRecord d], nextSequence := s.queue.nextSequence + 1 }).RecordForm := by
    refine ⟨h.queue.append room rfl rfl rfl, h.apart, fun r hr ha => ?_, fun none => .inr ?_, h.active⟩
    · obtain ⟨origin, session, sequence, none⟩ := h.awaiting r hr ha
      refine ⟨origin, session, ?_, none⟩
      show _ < (s.queue.nextSequence + 1).toNat
      rw [advanced none, ← counted none]
      exact Nat.lt_succ_of_lt sequence
    · simpa using advanced none
  refine queued.insert _ fun awaits => ?_
  have none : s.ctrl.session = none := Option.isNone_iff_eq_none.mp awaits
  refine ⟨rfl, none, ?_, none, fun x hx ha same => ?_⟩
  · show s.queue.nextSequence.toNat < (s.queue.nextSequence + 1).toNat
    rw [advanced none, counted none]
    exact Nat.lt_succ_self _
  · have below := (h.awaiting x hx ha).2.2.1
    rw [show s.queue.nextSequence = x.sequence from same] at below
    exact absurd below (Nat.lt_irrefl _)

theorem State.RecordForm.handOver (d : Draft) (running : ¬ s.ctrl.station.Ended) : (handOver d s).RecordForm := by
  refine handOver_ind d s (h.keep ?_ ?_ ?_ ?_ ?_ ?_) fun open_ => h.enqueue d ?_ fun _ => running
  · simpa [loseRecord] using RecordsWithin.refl _
  · simp [State.own, loseRecord]
  · simp [loseRecord]
  · simp [loseRecord]
  · simp [loseRecord]
  · simp [loseRecord]
  · simp only [State.queueClosed, Bool.or_eq_false_iff, decide_eq_false_iff_not] at open_
    omega

/-- In ACTIVE, where there is a session, the removal leaves room for the record of a pending loss. -/
theorem State.RecordForm.removeWhile (active : s.ctrl.station = .active) (test : QueuedRecord → Bool) :
    (removeWhile test s).RecordForm := by
  have some_ := h.active active
  have shrunk : QueueForm (s.queue.records.dropWhile test) s.queue.nextSequence s.ctrl.session :=
    h.queue.suffix (List.dropWhile_suffix _)
  refine removeWhile_ind test s ?_ fun l _ fewer => State.RecordForm.enqueue ?_ _ ?_ fun none => absurd none some_
  · exact ⟨shrunk, h.apart, h.awaiting, fun none => absurd none some_, h.active⟩
  · exact ⟨shrunk, h.apart, h.awaiting, fun none => absurd none some_, h.active⟩
  · exact Nat.lt_of_lt_of_le fewer h.queue.room

theorem enterListen_recordForm (running : ¬ s.ctrl.station.Ended) : (enterListen s).RecordForm :=
  h.move (by simpa using RecordsWithin.refl _) (by simp [State.own]) (by simp) (by simp) (by simp [enterListen])
    (fun e => absurd e running) (by simp [enterListen])

theorem retire_recordForm {st : StationState} (ended : st.Ended) : (retire st s).RecordForm := by
  refine h.move ?_ (by simp [State.own]) (by simp) (by simp) (by simp [retire]) (fun _ => by simpa [retire] using ended) ?_
  · simpa [retire] using s.journal.finalRelease_within
  · rcases ended with rfl | rfl <;> simp [retire]

theorem enterDeparted_recordForm : (enterDeparted s).RecordForm := by
  refine retire_recordForm (s := (s.setCtrl { s.ctrl with station := .departed }).setQueue s.queue.discard) ?_ (.inl rfl)
  exact ⟨.nil _ _, h.apart, h.awaiting, fun _ => .inl (.inl rfl), fun e => nomatch e⟩

/-- On the entry to ACTIVE every record, queued or awaiting, takes the session. -/
theorem enterActive_recordForm (i : Bool) (b : SlotStart) : (enterActive i b s).RecordForm := by
  have entered := enterActive_spec i b s
  have held : ∀ y, s.ctrl.session = some y → s.entrySession = y := fun y hy => by simp [State.entrySession, hy]
  constructor
  · rw [entered.records, entered.ctrl]
    refine h.queue.map (fun _ => rfl) (fun _ => rfl) fun r hr => ?_
    have current := h.queue.session r hr
    cases hs : s.ctrl.session with
    | none => simp [current, hs]
    | some y => simp [current, hs, held y hs]
  · rw [entered.journal]
    have none := s.journal.takeSession_not_awaiting s.own s.entrySession
    refine (List.Pairwise.and_mem.mp (Journal.takeSession_unique s.own s.entrySession h.apart fun r hr ha =>
      (h.awaiting r hr ha).1)).imp fun {a b} ⟨ha, _, apart⟩ => ⟨apart, fun awaits => ?_⟩
    simp [none a ha] at awaits
  · rw [entered.journal]
    intro r hr awaits
    simp [s.journal.takeSession_not_awaiting s.own s.entrySession r hr] at awaits
  · rw [entered.ctrl]
    intro none
    simp at none
  · rw [entered.ctrl]
    intro _
    simp

theorem sendContent_recordForm (o : TransmitOrder) : (sendContent o s).RecordForm := by
  have sent : (s.contentSent o).RecordForm := by
    unfold State.contentSent
    split
    · exact ⟨h.queue, h.apart, h.awaiting, h.numbering, h.active⟩
    · refine ⟨h.queue.announce rfl, h.apart, h.awaiting, fun none => (h.numbering none).imp id fun e => e.trans ?_, h.active⟩
      simp [OutboundQueue.announce, OutboundQueue.selected]
      omega
  exact sendContent_ind o s sent fun _ => enterDeparted_recordForm sent

/-- REJOIN empties the queue, numbers anew and leaves no record awaiting a session (R38, R108, R127). -/
theorem rejoinBlocks_recordForm (station : s.ctrl.station ≠ .active) : (rejoinBlocks s).RecordForm := by
  have records : (rejoinBlocks s).journal.records = s.journal.records.map fun r => { r with awaiting := false } := by
    simp [rejoinBlocks, Journal.rejoin, Journal.records]
  refine ⟨.nil _ _, ?_, fun r hr awaits => ?_, fun _ => .inr rfl, fun e => absurd e station⟩
  · rw [records]
    exact List.Pairwise.map _ (fun a b apart => ⟨apart.1, fun e => nomatch e⟩) h.apart
  · rw [records] at hr
    obtain ⟨x, -, rfl⟩ := List.mem_map.mp hr
    simp at awaits

end Form

end Sys2Proof.Machine
end

section
/-! SUPPORT. Both forms of records are kept by every shared operation, and with them by every step. -/

namespace Sys2Proof.Machine

/-- State.Numbered and State.Identified, with what the latter says of a reset set apart. -/
structure State.Recorded (s : State) : Prop where
  form : s.RecordForm
  reset : s.ResetForm

section

variable {s t : State} (h : s.Recorded)
include h

theorem State.Recorded.noReset (busy : s.ctrl.station ≠ .config ∨ s.port.transaction ≠ .idle) :
    s.pins.resetLow = false :=
  Bool.eq_false_of_not_eq_true fun low => busy.elim (fun e => e (h.reset low).1) fun e => e (h.reset low).2.1

theorem State.Recorded.running (out : s.ctrl.station ≠ .config) (pins : t.pins = s.pins) (form : t.RecordForm) :
    t.Recorded := ⟨form, fun low => by rw [pins, h.noReset (.inl out)] at low; simp at low⟩

theorem State.Recorded.keep (settings : t.own = s.own) (ctrl : t.ctrl.station = s.ctrl.station)
    (session : t.ctrl.session = s.ctrl.session) (records : t.queue.records = s.queue.records)
    (next : t.queue.nextSequence = s.queue.nextSequence) (released : t.journal.released = s.journal.released)
    (unreleased : t.journal.unreleased = s.journal.unreleased) (transaction : t.port.transaction = s.port.transaction)
    (pins : t.pins.resetLow = s.pins.resetLow) : t.Recorded := by
  refine ⟨h.form.keep ?_ settings records next session ctrl, fun low => ?_⟩
  · rw [Journal.records, Journal.records, released, unreleased]
    exact .refl _
  · obtain ⟨config, idle, none, none'⟩ := h.reset (pins ▸ low)
    exact ⟨ctrl.trans config, transaction.trans idle, released.trans none, unreleased.trans none'⟩

/-- An operation of the line or the clock that leaves the records and the port's transaction. -/
theorem State.Recorded.same (settings : t.settings = s.settings) (ctrl : t.ctrl = s.ctrl) (queue : t.queue = s.queue)
    (journal : t.journal = s.journal) (transaction : t.port.transaction = s.port.transaction) (pins : t.pins = s.pins) :
    t.Recorded :=
  h.keep (by rw [State.own, settings]; rfl) (by rw [ctrl]) (by rw [ctrl]) (by rw [queue]) (by rw [queue]) (by rw [journal])
    (by rw [journal]) transaction (by rw [pins])

theorem State.Recorded.setCtrl {c : Controller} (station : c.station = s.ctrl.station)
    (session : c.session = s.ctrl.session) : (s.setCtrl c).Recorded :=
  h.keep rfl station session rfl rfl rfl rfl rfl rfl

theorem lineActivity_recorded : (lineActivity s).Recorded :=
  lineActivity_ind s (fun _ => h.setCtrl rfl rfl) h

theorem enterListen_recorded (runs : s.ctrl.station.Running) : (enterListen s).Recorded :=
  h.running runs.ne_config (by simp)
    (enterListen_recordForm h.form (by rintro (e | e) <;> simp [StationState.Running, e] at runs))

theorem reintegrate_recorded (active : s.ctrl.station = .active) : (reintegrate s).Recorded := by
  have cleared : (s.setCtrl { s.ctrl with echoRun := 0, clampedRun := 0, departingOrder := false }).Recorded :=
    h.setCtrl rfl rfl
  exact enterListen_recorded cleared (.inr (.inr (.inr active)))

theorem enterFault_recorded (runs : s.ctrl.station.Running) : (enterFault s).Recorded :=
  h.running runs.ne_config (by simp) (retire_recordForm h.form (.inr rfl))

theorem enterDeparted_recorded (runs : s.ctrl.station.Running) : (enterDeparted s).Recorded :=
  h.running runs.ne_config (by simp) (enterDeparted_recordForm h.form)

theorem enterIntegrate_recorded (f : Frame) (localAt : Nat)
    (idle : s.ctrl.station = .listen ∨ s.ctrl.station = .coldstart) : (enterIntegrate f localAt s).Recorded := by
  have entered := enterIntegrate_spec f localAt s
  refine h.running (by rcases idle with e | e <;> simp [e]) (by simp) (h.form.move (by simpa using RecordsWithin.refl _)
    (by simp [State.own]) (by simp) (by simp) (by rw [entered.ctrl]) (fun ended => ?_) (by simp [entered.ctrl]))
  rcases ended with e | e <;> simp [e] at idle

theorem enterColdstart_recorded (listen : s.ctrl.station = .listen) : (enterColdstart s).Recorded := by
  refine h.running (by simp [listen]) (by simp) (h.form.move (by simpa using RecordsWithin.refl _)
    (by simp [State.own]) (by simp) (by simp) (by simp [enterColdstart, restartSlotTimer]) (fun ended => ?_)
    (by simp [enterColdstart]))
  rcases ended with e | e <;> simp [e] at listen

theorem controllerTakeFrame_recorded (f : Frame) (localAt : Nat) : (controllerTakeFrame f localAt s).Recorded :=
  controllerTakeFrame_ind f localAt s (fun runs _ => enterFault_recorded h runs)
    (fun idle _ => enterIntegrate_recorded h f localAt idle) (fun _ => lineActivity_recorded h)
    (fun _ _ _ _ => h.setCtrl rfl rfl) h

theorem controllerBoundary_recorded (b : SlotStart) : (controllerBoundary b s).Recorded := by
  refine controllerBoundary_ind b s
    (controllerEntry_ind b s (fun i hs => ?_) (fun hs => enterListen_recorded h (.inr (.inr (.inl hs)))) h)
    (fun u hu => drainRoundEnd_ind u (fun _ _ _ _ => hu.setCtrl rfl rfl) (fun _ _ _ _ => hu.setCtrl rfl rfl)
      (fun n _ runs => ?_) hu)
    (fun o u hu _ => hu.same (by simp) (by simp) (by simp) (by simp) (by simp) (by simp))
  · exact h.running (by rcases hs with e | e <;> simp [e]) (by simp) (enterActive_recordForm h.form i b)
  · have counted : (u.setCtrl { u.ctrl with drainCount := n }).Recorded := hu.setCtrl rfl rfl
    exact enterDeparted_recorded counted runs

theorem outboundTakeFrame_recorded (f : Frame) : (outboundTakeFrame f s).Recorded := by
  have taken : (s.ackTaken f).Recorded := by
    rw [s.ackTaken_writes f]
    exact h.keep rfl rfl rfl rfl rfl rfl rfl rfl rfl
  refine outboundTakeFrame_ind f s (fun _ _ => taken) (fun test _ active => ?_) h
  exact taken.running (by rw [show (s.ackTaken f).ctrl = s.ctrl from rfl, active]; simp) (by simp)
    (taken.form.removeWhile active test)

theorem processBeacon_recordForm (f : Frame) : (processBeacon f s).RecordForm :=
  processBeacon_ind f s h.form (fun _ _ hu => hu.insert _ fun e => nomatch e) (fun _ _ hu => hu.same rfl rfl rfl rfl)
    (fun _ _ _ hu _ _ => hu.same rfl rfl rfl rfl)

theorem takeSample_recorded (levels : BitVec 8) : (takeSample levels s).Recorded := by
  have sampled (c : CaptureUnit) : (s.setCapture c).Recorded := h.same rfl rfl rfl rfl rfl rfl
  refine takeSample_ind levels s (sampled _) fun d u hu ctrl _ producing => ?_
  have runs := (State.producing_running producing).1
  rw [← ctrl] at runs
  exact hu.running runs.ne_config (by simp)
    (hu.form.handOver d (by rintro (e | e) <;> simp [StationState.Running, e] at runs))

theorem command_recordForm (code : Byte) (args : List Byte) : (commandOf code args s).2.RecordForm := by
  have f := h.form
  have same {u : State} (journal : u.journal = s.journal) (settings : u.own = s.own) (queue : u.queue = s.queue)
      (ctrl : u.ctrl = s.ctrl) : u.RecordForm :=
    f.keep (journal ▸ .refl _) settings (by rw [queue]) (by rw [queue]) (by rw [ctrl]) (by rw [ctrl])
  have rejoined (departed : s.ctrl.station = .departed) : (enterListen (rejoinBlocks s)).RecordForm := by
    have blocks := rejoinBlocks_recordForm f (by simp [departed])
    -- the numbering begins again, so the entry to LISTEN may be taken as one from any state
    have restarted : (State.setCtrl (rejoinBlocks s) { (rejoinBlocks s).ctrl with station := .listen }).RecordForm :=
      ⟨blocks.queue, blocks.apart, blocks.awaiting, fun _ => .inr rfl, fun e => nomatch e⟩
    have entered := enterListen_recordForm restarted (by rintro (e | e) <;> exact nomatch e)
    exact entered
  refine commandOf_state_ind s f ?_ (fun _ _ => f.keep (.refl _) rfl rfl rfl rfl rfl) (fun tag producing open_ => ?_)
    (fun _ => same rfl rfl rfl rfl) ?_ (fun _ _ _ => same rfl rfl rfl rfl) (fun _ _ => same rfl rfl rfl rfl)
    (fun config _ => ?_) (fun active => ?_) (fun _ => enterDeparted_recordForm f) (fun departed _ => rejoined departed)
    (fun departed _ => ?_) args
  · exact same (by simp) (by simp [State.own]) (by simp) (by simp)
  · have runs := (State.producing_running producing).1
    refine f.enqueue _ ?_ fun _ => by rintro (e | e) <;> simp [StationState.Running, e] at runs
    simp only [State.queueClosed, Bool.or_eq_false_iff, decide_eq_false_iff_not] at open_
    omega
  · exact f.keep (.refl _) rfl rfl rfl rfl rfl
  · have started : s.started.RecordForm := f.keep (.refl _) rfl rfl rfl rfl rfl
    exact enterListen_recordForm started (by rintro (e | e) <;> simp [State.started, config] at e)
  · exact f.keep (.refl _) rfl rfl rfl rfl rfl
  · exact (rejoined departed).keep (.refl _) rfl rfl rfl rfl rfl

end

theorem inReset_recorded (s : State) : s.inReset.Recorded :=
  ⟨⟨.nil _ _, .nil, fun _ h => by simp [State.inReset, State.reset, Journal.reset, Journal.records] at h,
    fun _ => .inr rfl, fun e => nomatch e⟩, fun _ => ⟨rfl, rfl, rfl, rfl⟩⟩

theorem endReset_recorded (straps : BitVec 4) {s : State} (h : s.Recorded) (low : s.pins.resetLow = true) :
    (endReset straps s).Recorded := by
  obtain ⟨-, -, none, none'⟩ := h.reset low
  have empty : s.journal.records = [] := by simp [Journal.records, none, none']
  refine ⟨⟨h.form.queue, h.form.apart, fun r hr => ?_, h.form.numbering, h.form.active⟩, fun e => by simp [endReset] at e⟩
  rw [show (endReset straps s).journal.records = [] from empty] at hr
  simp at hr

theorem recorded_kept : Kept State.Recorded where
  inReset s _ := inReset_recorded s
  endReset straps _ h low := endReset_recorded straps h low
  select _ _ h := h.keep rfl rfl rfl rfl rfl rfl rfl rfl rfl
  begin _ h _ noReset := ⟨h.form.same rfl rfl rfl rfl, fun low => by simp [noReset] at low⟩
  endTransaction s h busy := by
    refine ⟨h.form.keep ?_ rfl rfl rfl rfl rfl, fun low => by simp [endTransaction, h.noReset (.inr busy)] at low⟩
    simp only [endTransaction]
    split <;> [split; exact .refl _] <;> [exact s.journal.completeRead_within; exact .refl _]
  timeout s h busy := by
    refine ⟨h.form.keep ?_ rfl rfl rfl rfl rfl, fun low => ?_⟩
    · simp only [timeoutTransaction, raise_keeps]
      split <;> exact .refl _
    · have busy : s.port.transaction ≠ .idle := by rcases busy with e | e <;> simp [e]
      simp [timeoutTransaction, h.noReset (.inr busy)] at low
  answer code args s h command _ := by
    have form := command_recordForm h code args
    refine ⟨form.same rfl rfl rfl rfl, fun low => ?_⟩
    have pins := command_pins code args s
    rw [answerWith_eq] at low
    have low : s.pins.resetLow = true := pins ▸ low
    simp [h.noReset (.inr (by simp [command]))] at low
  bit _ _ _ h _ _ := h.same rfl rfl rfl rfl rfl rfl
  receive _ _ h _ := h.same rfl rfl rfl rfl rfl rfl
  send _ h _ := h.same rfl rfl rfl rfl rfl rfl
  pass _ _ h := h.keep rfl rfl rfl rfl rfl rfl rfl rfl rfl
  receiver _ _ h _ := h.same rfl rfl rfl rfl rfl rfl
  valid _ h := h.same rfl rfl rfl rfl rfl rfl
  garbled _ h := h.same rfl rfl rfl rfl rfl rfl
  foreign _ h := h.same rfl rfl rfl rfl rfl rfl
  offSlot _ h := h.same rfl rfl rfl rfl rfl rfl
  takeGarbled s h := controllerTakeGarbled_ind s (fun _ => lineActivity_recorded h)
    (fun hs => enterListen_recorded h (.inr (.inl hs))) h
  takeForeign s h := controllerTakeForeign_ind s (fun _ => lineActivity_recorded h) h
  controllerFrame f localAt _ h := controllerTakeFrame_recorded h f localAt
  timeFrame _ _ _ h := h.same (by simp) (by simp) (by simp) (by simp) (by simp) (by simp)
  membershipFrame f s h := h.same (by simp) (by simp) (by simp) (by simp) (membershipTakeFrame_grows f s).transaction (by simp)
  outboundFrame f _ h := outboundTakeFrame_recorded h f
  receiptFrame integrating f s h out := receiptTakeFrame_ind integrating f s (fun _ runs => h.running
    (by rcases runs with e | e | e <;> simp [*]) (by simp) (processBeacon_recordForm h f)) h
  startSending _ _ _ h _ := h.same rfl rfl rfl rfl rfl rfl
  sofMark s o _ h _ := by
    by_cases config : s.ctrl.station = .config
    · rw [sendContent_eq, if_neg (by simp [config])]
      refine ⟨?_, fun low => h.reset low⟩
      have := sendContent_recordForm h.form o
      rwa [sendContent_eq, if_neg (by simp [config])] at this
    · exact h.running config (by simp) (sendContent_recordForm h.form o)
  sent _ _ _ h _ := h.same rfl rfl rfl rfl rfl rfl
  echo _ _ h _ := h.same rfl rfl rfl rfl rfl rfl
  takeEcho kind good s h := controllerTakeEcho_ind kind good s (fun hs => enterListen_recorded h (.inr (.inl hs)))
    (fun _ _ _ => h.setCtrl rfl rfl) (reintegrate_recorded h) h
  nextSlot _ _ _ h _ := h.setCtrl rfl rfl
  controllerAct b _ h := controllerBoundary_recorded h b
  timeAct b s h := h.same (by simp) (by simp) (by simp) (by simp) (timeRoundEnd_grows b s).transaction (by simp)
  membershipAct b s h := h.same (by simp) (by simp) (by simp) (by simp) (membershipRoundEnd_grows b s).transaction (by simp)
  outboundAct s h := outboundRoundEnd_ind s (fun test active => h.running (by simp [active]) (by simp)
    (h.form.removeWhile active test)) h
  journalAct s h := by
    by_cases active : s.ctrl.station = .active
    · exact h.running (by simp [active]) (by simp) (journalBoundary_ind s
        (fun c => h.form.keep (s.journal.releaseStep_within c) rfl rfl rfl rfl rfl) h.form)
    · rw [journalBoundary, if_neg active]
      exact h
  correctionReport r s h := takeCorrectionReport_ind r s (fun _ _ _ => h.setCtrl rfl rfl) (reintegrate_recorded h) h
  viewReport s h := takeViewReport_ind s (reintegrate_recorded h) h
  coldstart _ h hs := enterColdstart_recorded h hs
  sample levels _ h _ := takeSample_recorded h levels

/-! ## The Journal's order -/

theorem ordered_answer {s : State} (h : s.journal.Ordered) (code : Byte) (args : List Byte) :
    (answerWith (code :: args) (commandOf code args) s).journal.Ordered :=
  Journal.ordered_stable.command h ⟨h.held, h.sorted, h.beyond, h.pin⟩ (Journal.rejoin_ordered h)
    (fun _ held => ⟨h.held, h.sorted, h.beyond, fun _ => held⟩) args

theorem ordered_kept : Kept fun s => s.journal.Ordered where
  inReset _ _ := ⟨Nat.zero_le _, .nil, fun _ e => (nomatch e), fun e => (nomatch e)⟩
  endReset _ _ h _ := h
  select _ _ h := h
  begin _ h _ _ := h
  endTransaction s h _ := by
    simp only [endTransaction]
    split <;> [split; exact h] <;> [exact Journal.completeRead_ordered h; exact Journal.abandonRead_ordered h]
  timeout s h _ := by
    simp only [timeoutTransaction, raise_keeps]
    split <;> [exact Journal.abandonRead_ordered h; exact h]
  answer code args _ h _ _ := ordered_answer h code args
  bit _ _ _ h _ _ := h
  receive _ _ h _ := h
  send _ h _ := h
  pass _ _ h := h
  receiver _ _ h _ := h
  valid _ h := h
  garbled _ h := h
  foreign _ h := h
  offSlot _ h := h
  takeGarbled _ h := by simpa using h
  takeForeign _ h := by simpa using h
  controllerFrame f localAt _ h := Journal.ordered_stable.controllerTakeFrame h f localAt
  timeFrame _ _ _ h := by simpa using h
  membershipFrame _ _ h := by simpa using h
  outboundFrame f _ h := Journal.ordered_stable.outboundTakeFrame h f
  receiptFrame integrating f _ h _ := Journal.ordered_stable.receiptTakeFrame h integrating f
  startSending _ _ _ h _ := h
  sofMark _ o _ h _ := Journal.ordered_stable.sendContent h o
  sent _ _ _ h _ := h
  echo _ _ h _ := h
  takeEcho _ _ _ h := by simpa using h
  nextSlot _ _ _ h _ := h
  controllerAct b _ h := Journal.ordered_stable.controllerBoundary h b
  timeAct _ _ h := by simpa using h
  membershipAct _ _ h := by simpa using h
  outboundAct _ h := Journal.ordered_stable.outboundRoundEnd h
  journalAct _ h := Journal.ordered_stable.journalBoundary h
  correctionReport _ _ h := by simpa using h
  viewReport _ h := by simpa using h
  coldstart _ h _ := by simpa using h
  sample levels _ h _ := Journal.ordered_stable.takeSample h levels

/-- Settles O55: the Journal's order is one form that every shared operation keeps, the numbering of the queue and the
identities in the Journal together are another. -/
theorem everyStepKeepsRecords : Obligations.EveryStepKeepsRecords := fun s t ordered numbered identified hstep =>
  have ⟨form, reset⟩ := s.identified_iff.mp ⟨numbered, identified⟩
  have kept := recorded_kept.step (fun _ _ h => ⟨h.form.same rfl rfl rfl rfl, h.reset⟩) ⟨form, reset⟩ hstep
  ⟨ordered_kept.step (fun _ _ h => h) ordered hstep, t.identified_iff.mpr ⟨kept.form, kept.reset⟩⟩

end Sys2Proof.Machine
end

section
/-! SUPPORT. What holds of every command: it goes on, it leaves the waiting commands, and out of CONFIG it leaves the
settings; and the state right after a reset has every invariant. -/

namespace Sys2Proof.Machine

/-- Settles O1: `step` takes the front of the queue by definition. -/
theorem stepTakesFrontCommand : Obligations.StepTakesFrontCommand := fun _ _ _ => rfl

/-! ## The state right after a reset -/

theorem reset_eq_endReset : State.reset = endReset 0 State.reset.inReset := rfl

/-- Settles O58: the state right after a reset is the end of a reset, which leaves every form. -/
theorem resetHasEveryInvariant : Obligations.ResetHasEveryInvariant := by
  unfold Obligations.ResetHasEveryInvariant
  rw [reset_eq_endReset]
  have low : State.reset.inReset.pins.resetLow = true := rfl
  have recorded := endReset_recorded 0 (inReset_recorded State.reset) low
  obtain ⟨numbered, identified⟩ := (State.identified_iff _).mpr ⟨recorded.form, recorded.reset⟩
  exact ⟨⟨Nat.zero_le _, .nil, fun _ e => (nomatch e), fun e => (nomatch e)⟩, numbered, identified,
    endReset_consistent (inReset_consistent State.reset) 0 low, ⟨fun e => (nomatch e), fun e => (nomatch e)⟩,
    (inReset_tableKept State.reset).keep rfl rfl, endReset_ownUnused 0 (inReset_ownUnused State.reset) low,
    (State.countersInRange_iff _).mpr (counts_kept.endReset 0 _ (inReset_counts State.reset) low),
    endReset_pinKept 0 (inReset_pinKept State.reset) low⟩

/-! ## The waiting commands -/

theorem command_pending (code : Byte) (args : List Byte) (s : State) : (commandOf code args s).2.pending = s.pending :=
  commandOf_state_ind (P := fun t => t.pending = s.pending) s rfl (by simp) (fun _ _ => rfl) (fun _ _ _ => by simp)
    (fun _ => rfl) rfl (fun _ _ _ => rfl) (fun _ _ => rfl) (fun _ _ => by simp [State.started]) (fun _ => rfl)
    (fun _ => by simp) (fun _ _ => by simp [rejoinBlocks]) (fun _ _ => by simp [rejoinBlocks]) args

theorem pending_kept (waiting : List Instr) : Kept fun s => s.pending = waiting where
  inReset _ h := h
  endReset _ _ h _ := h
  select _ _ h := h
  begin _ h _ _ := h
  endTransaction _ h _ := h
  timeout _ h _ := by simpa [timeoutTransaction] using h
  answer code args s h _ _ := (command_pending code args s).trans h
  bit _ _ _ h _ _ := h
  receive _ _ h _ := h
  send _ h _ := h
  pass _ _ h := h
  receiver _ _ h _ := h
  valid _ h := h
  garbled _ h := h
  foreign _ h := h
  offSlot _ h := h
  takeGarbled _ h := by simpa using h
  takeForeign _ h := by simpa using h
  controllerFrame _ _ _ h := by simpa using h
  timeFrame _ _ _ h := by simpa using h
  membershipFrame _ _ h := by simpa using h
  outboundFrame _ _ h := by simpa using h
  receiptFrame _ _ _ h _ := by simpa using h
  startSending _ _ _ h _ := h
  sofMark _ _ _ h _ := by simpa using h
  sent _ _ _ h _ := h
  echo _ _ h _ := h
  takeEcho _ _ _ h := by simpa using h
  nextSlot _ _ _ h _ := h
  controllerAct _ _ h := by simpa using h
  timeAct _ _ h := by simpa using h
  membershipAct _ _ h := by simpa using h
  outboundAct _ h := by simpa using h
  journalAct _ h := by simpa using h
  correctionReport _ _ h := by simpa using h
  viewReport _ h := by simpa using h
  coldstart _ h _ := by simpa using h
  sample _ _ h _ := by simpa using h

/-- No command stops the part. -/
theorem exec_next (c : Instr) (s : State) : ∃ t, exec c s = .next t := by
  cases c <;> exact ⟨_, rfl⟩

/-- Settles O3: every row answers with a next state, and every shared operation leaves the waiting commands. -/
theorem everyCommandGoesOn : Obligations.EveryCommandGoesOn := fun c s =>
  have ⟨t, ht⟩ := exec_next c s
  ⟨t, ht, (pending_kept s.pending).exec rfl ht⟩

/-! ## Settings and pins -/

/-- What every operation of a fold leaves, the fold leaves. -/
theorem foldl_leaves {α β γ : Type} (p : β → γ) (f : β → α → β) (leaves : ∀ s a, p (f s a) = p s) (l : List α) (s : β) :
    p (l.foldl f s) = p s := by
  induction l generalizing s with
  | nil => rfl
  | cons a l ih => exact (ih _).trans (leaves s a)

theorem frameAct_outside (i : Bool) (f : Frame) (sof : CommonTime) (localAt : Nat) (s : State) (a : FrameAct) :
    ((frameAct i f sof localAt s a).settings, (frameAct i f sof localAt s a).pins) = (s.settings, s.pins) := by
  cases a <;> simp [frameAct]

theorem settleFrame_outside (order : List FrameAct) (c : FrameClass) (s : State) :
    ((settleFrame order c s).settings, (settleFrame order c s).pins) = (s.settings, s.pins) := by
  unfold settleFrame
  split
  · simp
  · simp
  · rfl
  · exact foldl_leaves (fun t : State => (t.settings, t.pins)) _ (fun _ _ => frameAct_outside ..) _ _

/-- No frame changes the settings or the pins. -/
theorem takeBurst_outside (bytes : List Byte) (order : List FrameAct) (s : State) :
    ((takeBurst bytes order s).settings, (takeBurst bytes order s).pins) = (s.settings, s.pins) := by
  unfold takeBurst
  split
  · rfl
  all_goals exact settleFrame_outside ..

theorem takeBurst_settings (bytes : List Byte) (order : List FrameAct) (s : State) :
    (takeBurst bytes order s).settings = s.settings := congrArg Prod.fst (takeBurst_outside bytes order s)

theorem takeBoundary_settings (b : SlotStart) (order : List BoundaryAct) (s : State) :
    (takeBoundary b order s).settings = s.settings := by
  refine foldl_leaves (fun run : BoundaryRun => run.state.settings) (boundaryAct b) (fun run a => ?_) _ _
  cases a <;> simp only [boundaryAct]
  case controller | journal => simp
  all_goals split <;> simp

section

variable {s : State} (out : s.ctrl.station ≠ .config)
include out

theorem command_settings (code : Byte) (args : List Byte) : (commandOf code args s).2.settings = s.settings :=
  commandOf_state_ind (P := fun t => t.settings = s.settings) s rfl (by simp) (fun _ _ => rfl) (fun _ _ _ => by simp)
    (fun _ => rfl) rfl (fun _ e => absurd e out) (fun _ e => absurd e out) (fun e => absurd e out) (fun _ => rfl)
    (fun _ => by simp) (fun _ _ => by simp [rejoinBlocks]) (fun _ _ => by simp [rejoinBlocks]) args

theorem clockBit_settings (sdi : Bool) : (clockBit sdi s).settings = s.settings := by
  have byte (x : Byte) (t : State) (same : t.settings = s.settings) (ctrl : t.ctrl = s.ctrl) :
      (clockByte x t).settings = s.settings := by
    simp only [clockByte]
    split
    · exact same
    · split
      · refine Eq.trans ?_ same
        exact command_settings (s := t.setPort _) (by rw [State.setPort_ctrl, ctrl]; exact out) _ _
      · exact same
    all_goals exact same
  unfold clockBit
  split
  · rfl
  all_goals exact iteInduction (motive := fun t : State => t.settings = s.settings) (fun _ => byte _ _ rfl rfl) fun _ => rfl

/-- The row of a host command leaves the settings out of CONFIG. -/
theorem hostCommand_settings {c : Instr} (host : (hostCommandBytes c).isSome = true) {t : State}
    (h : exec c s = .next t) : t.settings = s.settings := by
  by_cases wf : c.wellFormed = true
  · obtain ⟨bytes, hb⟩ := Option.isSome_iff_exists.mp host
    obtain ⟨code, args, rfl, -, he⟩ := exec_hostCommand wf hb s
    rw [he, Host.Outcome.next.injEq] at h
    rw [← h]
    exact iteInduction (motive := fun t : State => t.settings = s.settings) (fun _ => command_settings out code args)
      fun _ => rfl
  · cases c <;> simp [Instr.wellFormed, hostCommandBytes] at wf host
    case unknownCommandCode code =>
      simp only [exec, execUnknownCommandCode] at h
      split at h <;> simp only [Host.Outcome.next.injEq] at h <;> rw [← h]
      unfold takeCommand
      split <;> rfl

end

/-- Settles O59: out of CONFIG the host commands that write settings are refused, and no event writes them. -/
theorem settingsFrozenAfterStart : Obligations.SettingsFrozenAfterStart := by
  intro c s t out notPower notPin noReset h
  by_cases host : (hostCommandBytes c).isSome = true
  · exact hostCommand_settings out host h
  cases c <;> simp [hostCommandBytes] at host
  all_goals simp only [exec, Host.Outcome.next.injEq, execResetEnd, execSelnAsserted, execSelnReleased, execPortTimerExpiry,
    execFrameTaken, execPreambleStart, execSofMarkSent, execFrameSent, execEchoResult, execSlotBoundary,
    execListenTimerExpiry, execSampleEvent, execWindowEnd, execHoldEnd, execSckRisingEdge, execBurstBegins,
    execSofMarkReceived] at h
  case powerOnReset => exact absurd rfl notPower
  case pinReset => exact absurd rfl notPin
  case resetEnd => rw [← h, if_neg (by simp [noReset])]
  case sckRisingEdge sdi => rw [← h]; exact clockBit_settings out sdi
  case frameTaken => rw [← h]; exact takeBurst_settings ..
  case preambleStart =>
    rw [← h]
    split
    · exact takeBurst_settings ..
    all_goals rfl
  case slotBoundary =>
    rw [← h]
    split
    · exact takeBoundary_settings ..
    · rfl
  case windowEnd =>
    rw [← h]
    split
    · split <;> simp
    · rfl
  case portTimerExpiry =>
    rw [← h]
    split
    · simp [timeoutTransaction]
    · rfl
  case selnReleased =>
    rw [← h]
    split <;> rfl
  case holdEnd => rw [← h]; rfl
  all_goals
    rw [← h]
    split <;> simp

end Sys2Proof.Machine
end

section
/-! SUPPORT. The commands that read: the numbers that stand in the bytes of their answers, field by field. -/

namespace Sys2Proof.Machine

/-! ## Sets and fields -/

/-- The set of a test holds the numbers that satisfy it (R167). -/
theorem setOf_getLsbD (test : StationNo → Bool) (n : StationNo) : (setOf test).getLsbD n.val = test n := by
  have fold (l : List StationNo) (v : Word16) :
      (l.foldl (fun v n => if test n then v ||| BitVec.twoPow 16 n.val else v) v).getLsbD n.val =
        (v.getLsbD n.val || l.any fun m => m == n && test m) := by
    induction l generalizing v with
    | nil => simp
    | cons m l ih =>
      rw [List.foldl_cons, ih, List.any_cons]
      by_cases same : m = n
      · subst same
        cases test m <;> simp
      · have other : m.val ≠ n.val := fun e => same (Fin.ext e)
        have distinct : (m == n) = false := beq_eq_false_iff_ne.mpr same
        cases test m <;> simp [distinct, other.symm]
  rw [setOf, fold, Bool.eq_iff_iff]
  simp [mem_allStations]

theorem State.inView_iff (s : State) (n : StationNo) : s.inView n = true ↔
    n = s.own ∨ s.members.peers[n].state = .member ∨ s.members.peers[n].state = .missing := by
  simp [State.inView, PeerEntry.inView_iff]

/-- The number in an optional item of a width lies in the range of the width. -/
theorem optional_lt {w : Nat} (o : Option (BitVec w)) : (o.map (·.toNat)).getD 0 < 2 ^ w := by
  cases o with
  | none => exact Nat.two_pow_pos w
  | some x => exact x.isLt

theorem field_bytesOf_end (n x : Nat) : field (bytesOf n x) 0 n = x % 2 ^ (8 * n) := by
  rw [← List.append_nil (bytesOf n x), field_bytesOf]

/-- A byte past a first part of the buffer is one of the rest. -/
theorem getD_bytesOf_append {n k : Nat} (h : n ≤ k) (x : Nat) (rest : List Byte) :
    (bytesOf n x ++ rest).getD k 0 = rest.getD (k - n) 0 := by
  rw [List.getD_append_right _ _ _ _ (by simpa using h), bytesOf_length]

/-! ## GET_STATUS -/

theorem StationState.code_lt (st : StationState) : st.code < 256 := by cases st <;> decide

/-- The parts of a GET_STATUS response in the order of R169. -/
theorem State.statusBytes_eq (s : State) : s.statusBytes = bytesOf 1 s.ctrl.station.code ++
    (bytesOf 1 (s.time.quality.code + flagBit 2 s.ctrl.leavePending + flagBit 3 s.ctrl.session.isSome) ++
      (bytesOf 2 s.view.toNat ++ (bytesOf 2 s.journal.released.length ++ (bytesOf 2 s.journal.unreleased.length ++
        (bytesOf 1 s.queue.records.length ++ (bytesOf 2 (s.ctrl.session.getD 0).toNat ++ [])))))) := by
  simp [statusBytes]

/-- Settles O10: each item of the snapshot fits into its bytes, the Journal's and the queue's by their forms. -/
theorem statusSnapshot : Obligations.StatusSnapshot := by
  intro s command numbered ordered
  refine ⟨⟨0x00 :: s.statusBytes, congrArg Host.Outcome.next (takeCommand_answering (command := getStatusCommand)
    command rfl _), ?_⟩, fun n => ?view, rfl, rfl⟩
  case view =>
    rw [State.view, setOf_getLsbD, s.inView_iff]
  have held := ordered.held
  have room := numbered.room
  have quality := s.time.quality.code_lt
  unfold Journal.held at held
  rw [s.statusBytes_eq]
  refine ⟨by simp, by simp, ?station, ?flags, ?viewField, ?released, ?unreleased, ?records, ?session⟩
  all_goals simp only [field_cons_succ, field_append_of_le, bytesOf_length, Nat.reduceLeDiff, Nat.reduceSub]
  case station => exact field_bytesOf_of_lt s.ctrl.station.code_lt _
  case flags =>
    rw [field_bytesOf_of_lt]
    · cases s.ctrl.leavePending <;> cases s.ctrl.session.isSome <;> rfl
    · unfold flagBit
      split <;> split <;> simp <;> omega
  case viewField => exact field_bytesOf_of_lt s.view.isLt _
  case released => exact field_bytesOf_of_lt (by omega) _
  case unreleased => exact field_bytesOf_of_lt (by omega) _
  case records => exact field_bytesOf_of_lt (by omega) _
  case session => exact field_bytesOf_of_lt (s.ctrl.session.getD 0).isLt _

/-! ## READ_TIME -/

theorem Profile.inRange_roundLength {p : Profile} (h : p.inRange = true) :
    1200 ≤ p.roundLength ∧ p.roundLength ≤ 64000 := by
  simp only [Profile.inRange, Bool.and_eq_true, decide_eq_true_eq] at h
  obtain ⟨⟨⟨⟨⟨⟨⟨⟨⟨⟨⟨⟨least, most⟩, short⟩, long⟩, -⟩, -⟩, -⟩, -⟩, -⟩, -⟩, -⟩, -⟩, -⟩ := h
  exact ⟨Nat.mul_le_mul least short, Nat.mul_le_mul most long⟩

theorem TimeUnit.count_lt (t : TimeUnit) (p : Profile) (h : 0 < p.cycle) : t.count p < p.cycle := by
  have positive : (0 : Int) < p.cycle := by exact_mod_cast h
  have below := Int.emod_lt_of_pos (t.localCounter + t.correctionOffset : Int) positive
  have above := Int.emod_nonneg (t.localCounter + t.correctionOffset : Int) positive.ne'
  unfold TimeUnit.count
  omega

/-- Round and offset present the count of common time (R41). -/
theorem State.commonTime_count (s : State) (h : 0 < s.roundLength) :
    s.commonTime.round.toNat * s.roundLength + s.commonTime.offset = s.time.count s.settings.profile := by
  have cycle : s.settings.profile.cycle = 2 ^ 40 * s.roundLength := rfl
  have below := s.time.count_lt s.settings.profile (by rw [cycle]; omega)
  have round : s.commonTime.round.toNat = s.time.count s.settings.profile / s.roundLength := by
    refine (BitVec.toNat_ofNat _ _).trans (Nat.mod_eq_of_lt ?_)
    rw [Nat.div_lt_iff_lt_mul h]
    exact cycle ▸ below
  rw [round, Nat.mul_comm]
  exact Nat.div_add_mod _ _

theorem State.commonTime_offset_lt (s : State) (h : 0 < s.roundLength) : s.commonTime.offset < s.roundLength :=
  Nat.mod_lt _ h

/-- The parts of a READ_TIME response in the order of R169. -/
theorem State.timeBytes_eq (s : State) : s.timeBytes = bytesOf 5 s.commonTime.round.toNat ++
    (bytesOf 2 s.commonTime.offset ++ (bytesOf 1 s.time.quality.code ++ correctionBytes s.time.lastCorrection)) := by
  simp [timeBytes]

theorem correctionBytes_length (c : Option Correction) : (correctionBytes c).length = 9 := by
  cases c <;> simp [correctionBytes]

/-- The parts of a last-correction record in the order of R169. -/
theorem correctionBytes_some (c : Correction) : correctionBytes (some c) =
    bytesOf 1 (1 + flagBit 1 c.midpoint.isSome + flagBit 2 c.clamped) ++ (bytesOf 5 c.round.toNat ++
      (bytesOf 1 c.count ++ [signedByte (c.midpoint.getD 0), signedByte (c.applied.getD 0)])) := by
  simp [correctionBytes]

/-- Settles O11: common time is its count presented by round and offset, and the last nine bytes are zeros or the
record's parts. -/
theorem timeSnapshot : Obligations.TimeSnapshot := by
  intro s command inRange
  obtain ⟨least, most⟩ : 1200 ≤ s.roundLength ∧ s.roundLength ≤ 64000 := Profile.inRange_roundLength inRange
  have positive : 0 < s.roundLength := by omega
  have offset := s.commonTime_offset_lt positive
  refine ⟨0x00 :: s.timeBytes, congrArg Host.Outcome.next (takeCommand_answering (command := readTimeCommand)
    command rfl _), ?_⟩
  rw [s.timeBytes_eq]
  have round : field (0x00 :: (bytesOf 5 s.commonTime.round.toNat ++ (bytesOf 2 s.commonTime.offset ++
      (bytesOf 1 s.time.quality.code ++ correctionBytes s.time.lastCorrection)))) 1 5 = s.commonTime.round.toNat := by
    rw [field_cons_succ]
    exact field_bytesOf_of_lt s.commonTime.round.isLt _
  have offsetField : field (0x00 :: (bytesOf 5 s.commonTime.round.toNat ++ (bytesOf 2 s.commonTime.offset ++
      (bytesOf 1 s.time.quality.code ++ correctionBytes s.time.lastCorrection)))) 6 2 = s.commonTime.offset := by
    simp only [field_cons_succ, field_append_of_le, bytesOf_length, Nat.reduceLeDiff, Nat.reduceSub]
    exact field_bytesOf_of_lt (by omega) _
  refine ⟨by simp [correctionBytes_length], by simp, ?count, offsetField.trans_lt offset, ?quality, fun none k low high => ?zeros,
    fun c some_ => ?record, rfl⟩
  case count => rw [round, offsetField, s.commonTime_count positive]
  case quality =>
    simp only [field_cons_succ, field_append_of_le, bytesOf_length, Nat.reduceLeDiff, Nat.reduceSub]
    have := s.time.quality.code_lt
    exact field_bytesOf_of_lt (n := 1) (by omega) _
  case zeros =>
    rw [none]
    interval_cases k <;>
      simp only [field_cons_succ, field_append_of_le, bytesOf_length, Nat.reduceLeDiff, Nat.reduceSub] <;> rfl
  case record =>
    rw [some_, correctionBytes_some]
    refine ⟨?_, ?_, fun small => ?_, ?_, ?_⟩
    all_goals simp only [field_cons_succ, field_append_of_le, bytesOf_length, Nat.reduceLeDiff, Nat.reduceSub,
      List.getD_cons_succ, getD_bytesOf_append]
    · rw [field_bytesOf]
      cases c.midpoint.isSome <;> cases c.clamped <;> rfl
    · exact field_bytesOf_of_lt c.round.isLt _
    · exact field_bytesOf_of_lt small _
    · rfl
    · rfl

/-! ## READ_PEER -/

theorem PeerState.code_lt (p : PeerState) : p.code < 256 := by cases p <;> decide

/-- Bit k of a byte of flags is the k-th flag. -/
theorem flags_getLsbD (b0 b1 b2 b3 b4 b5 b6 b7 : Bool) :
    let flags : Byte := BitVec.ofNat 8 (flagBit 0 b0 + flagBit 1 b1 + flagBit 2 b2 + flagBit 3 b3 + flagBit 4 b4 +
      flagBit 5 b5 + flagBit 6 b6 + flagBit 7 b7)
    flags.getLsbD 0 = b0 ∧ flags.getLsbD 1 = b1 ∧ flags.getLsbD 2 = b2 ∧ flags.getLsbD 3 = b3 ∧ flags.getLsbD 4 = b4 ∧
      flags.getLsbD 5 = b5 ∧ flags.getLsbD 6 = b6 ∧ flags.getLsbD 7 = b7 := by
  decide +revert

theorem bytesOf_one (x : Nat) : bytesOf 1 x = [BitVec.ofNat 8 x] := by simp [bytesOf]

/-- The parts of a READ_PEER response in the order of R169. -/
theorem peerBytes_eq (number : StationNo) (e : PeerEntry) (r : ReceiptEntry) (acked : Option Sequence) :
    peerBytes number e r acked = bytesOf 1 number.val ++ (bytesOf 1 e.state.code ++ (bytesOf 1 e.heardCount ++
      (bytesOf 1 e.missCount ++ (BitVec.ofNat 8 (flagBit 0 e.lastRound.isSome + flagBit 1 e.lastView.isSome +
          flagBit 2 e.lastQuality.isSome + flagBit 3 r.knownSession.isSome + flagBit 4 r.receivedThrough.isSome +
          flagBit 5 r.issuedThrough.isSome + flagBit 6 r.watermark.isSome + flagBit 7 acked.isSome) ::
        (bytesOf 5 ((e.lastRound.map (·.toNat)).getD 0) ++ (bytesOf 2 ((e.lastView.map (·.toNat)).getD 0) ++
        (bytesOf 1 ((e.lastQuality.map (·.code)).getD 0) ++ (bytesOf 2 ((r.knownSession.map (·.toNat)).getD 0) ++
        (bytesOf 2 ((r.receivedThrough.map (·.toNat)).getD 0) ++ (bytesOf 2 ((r.issuedThrough.map (·.toNat)).getD 0) ++
        (bytesOf 5 ((r.watermark.map (·.round.toNat)).getD 0) ++ (bytesOf 2 ((r.watermark.map (·.offset)).getD 0) ++
        (bytesOf 2 ((acked.map (·.toNat)).getD 0) ++ []))))))))))))) := by
  simp [peerBytes, itemBytes, bytesOf_one]

theorem exec_readPeer {number : Byte} {s : State} {answer : Answer} (h : s.port.transaction = .command)
    (hcommand : readPeerCommand number s = (answer, s)) :
    exec (.readPeer number) s = .next (s.answering [0x04, number] (answer.status.code :: answer.response)) :=
  congrArg Host.Outcome.next (takeCommand_answering h hcommand _)

/-- Settles O13: the entry's items stand one after the other, the flags of the optional ones in one byte. -/
theorem peerSnapshot : Obligations.PeerSnapshot := by
  intro number s command
  refine ⟨rfl, rfl, fun above => ?refused, fun own => ?own, fun n hn other => ?entry⟩
  case refused => exact exec_readPeer command (dif_neg (Nat.not_lt.mpr above))
  case own =>
    have small : number.toNat < 16 := own ▸ s.own.isLt
    have same : (⟨number.toNat, small⟩ : StationNo) = s.own := Fin.ext own
    refine exec_readPeer (answer := ⟨.ok, number :: List.replicate 27 0x00⟩) command ?_
    unfold readPeerCommand
    rw [dif_pos small]
    dsimp only
    rw [if_pos same]
    congr 2
    simp [peerBytes, itemBytes, bytesOf, PeerEntry.reset, ReceiptEntry.reset, flagBit, PeerState.code]
  case entry =>
    have small : number.toNat < 16 := hn ▸ n.isLt
    have same : (⟨number.toNat, small⟩ : StationNo) = n := Fin.ext hn.symm
    refine ⟨0x00 :: peerBytes n s.members.peers[n] s.receipts.entries[n] s.queue.ackedThrough[n],
      exec_readPeer (answer := ⟨.ok, _⟩) command ?_, ?_⟩
    · unfold readPeerCommand
      rw [dif_pos small]
      subst same
      dsimp only
      rw [if_neg other]
      rfl
    generalize s.members.peers[n] = e
    generalize s.receipts.entries[n] = r
    generalize s.queue.ackedThrough[n] = acked
    rw [peerBytes_eq]
    have flags := flags_getLsbD e.lastRound.isSome e.lastView.isSome e.lastQuality.isSome r.knownSession.isSome
      r.receivedThrough.isSome r.issuedThrough.isSome r.watermark.isSome acked.isSome
    refine ⟨by simp, by simp, ?_⟩
    simp only [field_cons_succ, field_append_of_le, bytesOf_length, Nat.reduceLeDiff, Nat.reduceSub,
      List.getD_cons_succ, getD_bytesOf_append, List.getD_cons_zero]
    obtain ⟨f0, f1, f2, f3, f4, f5, f6, f7⟩ := flags
    refine ⟨field_bytesOf_of_lt (n.isLt.trans (by norm_num)) _, field_bytesOf_of_lt e.state.code_lt _, field_bytesOf _ _ _,
      field_bytesOf _ _ _, f0, f1, f2, f3, f4, f5, f6, f7, field_bytesOf_of_lt (optional_lt _) _,
      field_bytesOf_of_lt (optional_lt _) _, field_bytesOf_of_lt ?_ _, field_bytesOf_of_lt (optional_lt _) _,
      field_bytesOf_of_lt ((optional_lt _).trans (by norm_num)) _, field_bytesOf_of_lt ((optional_lt _).trans (by norm_num)) _,
      field_bytesOf_of_lt ?_ _, field_bytesOf _ _ _, field_bytesOf_of_lt ((optional_lt _).trans (by norm_num)) _⟩
    · cases e.lastQuality with
      | none => decide
      | some q => exact q.code_lt.trans (by norm_num)
    · cases r.watermark with
      | none => decide
      | some t => exact t.round.isLt

/-! ## READ_COUNTS -/

/-- The thirteen counters in the order of R169. -/
theorem State.countsBytes_eq (s : State) : s.counters.flatMap (bytesOf 2) =
    bytesOf 2 s.line.valid ++ (bytesOf 2 s.line.garbled ++ (bytesOf 2 s.line.foreign ++ (bytesOf 2 s.line.offSlot ++
    (bytesOf 2 s.line.echoFailures ++ (bytesOf 2 s.queue.captureLost ++ (bytesOf 2 s.queue.abandoned ++
    (bytesOf 2 s.receipts.duplicates ++ (bytesOf 2 s.receipts.gaps ++ (bytesOf 2 s.journal.overrun ++
    (bytesOf 2 s.journal.overflow ++ (bytesOf 2 s.journal.late ++ (bytesOf 2 s.journal.forced ++ [])))))))))))) := by
  simp [counters]

/-- Settles O14: each counter is a 16-bit count and fits into its two bytes. -/
theorem countsRead : Obligations.CountsRead := by
  intro s command inRange
  refine ⟨0x00 :: s.counters.flatMap (bytesOf 2), congrArg Host.Outcome.next (takeCommand_answering
    (command := readCountsCommand) command rfl _), ?_⟩
  obtain ⟨⟨valid, garbled, foreign, offSlot, echo⟩, ⟨lost, abandoned⟩, ⟨duplicates, gaps⟩, overrun, overflow, late, forced⟩ :=
    s.countersInRange_iff.mp inRange
  have two {x : Nat} (h : x ≤ 65535) (rest : List Byte) : field (bytesOf 2 x ++ rest) 0 2 = x :=
    field_bytesOf_of_lt (by omega) rest
  rw [s.countsBytes_eq]
  refine ⟨by simp, by simp, ?_, ?_, ?_⟩
  all_goals simp only [field_cons_succ, field_append_of_le, bytesOf_length, Nat.reduceLeDiff, Nat.reduceSub]
  · rw [two valid, two garbled, two foreign, two offSlot, two echo]
  · rw [two lost, two abandoned, two duplicates, two gaps]
  · rw [two overrun, two overflow, two late, two forced]

/-! ## READ_RECORD and PEEK_RECORD -/

/-- Settles O16: both copy the head, and the one that pins it leaves the Journal else. -/
theorem recordCopiedAndPinned : Obligations.RecordCopiedAndPinned := by
  intro s command
  have read {answer : Answer} {t : State} (h : readRecordCommand s = (answer, t)) :
      exec .readRecord s = .next (t.answering [0x10] (answer.status.code :: answer.response)) :=
    congrArg Host.Outcome.next (takeCommand_answering command h _)
  have peek {answer : Answer} {t : State} (h : peekRecordCommand s = (answer, t)) :
      exec .peekRecord s = .next (t.answering [0x11] (answer.status.code :: answer.response)) :=
    congrArg Host.Outcome.next (takeCommand_answering command h _)
  refine ⟨fun empty => ⟨read (answer := .only .empty) ?_, peek (answer := .only .empty) ?_⟩,
    fun head rest released => ⟨read (answer := ⟨.ok, head.hostBytes⟩) ?_, peek (answer := ⟨.ok, head.hostBytes⟩) ?_⟩⟩
  · simp [readRecordCommand, empty]
  · simp [peekRecordCommand, empty]
  · simp [readRecordCommand, released, State.setJournal]
  · simp [peekRecordCommand, released]

end Sys2Proof.Machine
end

section
/-! SUPPORT. Resets, the transactions of the host port, and the commands that act. -/

namespace Sys2Proof.Machine

/-! ## Resets -/

/-- Settles O4: the state during a reset is written out block by block, and RESET_END writes three fields. -/
theorem resetReturnsEveryBlock : Obligations.ResetReturnsEveryBlock := by
  refine ⟨fun s => ⟨s.inReset, rfl, rfl, rfl, rfl, fun i => ?inputs, rfl, rfl, rfl, rfl, fun n => ⟨?peer, ?receipt, ?acked,
    ?session⟩, ⟨rfl, rfl, rfl, rfl⟩, fun i => ?tracker, ⟨rfl, rfl, rfl⟩, ⟨rfl, rfl, rfl⟩, rfl, ?counters, rfl, fun x => ?mask,
    rfl, ?attn, rfl, rfl, rfl⟩, fun straps s => ⟨fun low => ⟨endReset straps s, ?resetEnd, rfl, rfl, rfl⟩, fun high => ?none⟩⟩
  case inputs => simp [State.inReset, State.reset, Settings.reset, InputSettings.default]
  case peer => simp [State.inReset, State.reset, Membership.reset, PeerEntry.reset]
  case receipt => simp [State.inReset, State.reset, ReceiptUnit.reset, ReceiptEntry.reset]
  case acked => simp [State.inReset, State.reset, OutboundQueue.reset]
  case session => simp [State.inReset, State.reset, OutboundQueue.reset]
  case tracker => simp [State.inReset, State.reset, CaptureUnit.reset, Tracker.reset]
  case counters =>
    simp [State.counters, State.inReset, State.reset, LineInterface.reset, OutboundQueue.reset, ReceiptUnit.reset,
      Journal.reset]
  case mask => exact HostPort.reset_mask x
  case attn => simp [State.attn, State.inReset, State.reset, HostPort.reset]
  case resetEnd => simp [exec, execResetEnd, low]
  case none => simp [exec, execResetEnd, high]

/-! ## Edges and timeouts -/

theorem getMsbD_eq_decide {b : Byte} {i : Nat} (h : i ≤ 7) : b.getMsbD i = decide (b.toNat / 2 ^ (7 - i) % 2 = 1) := by
  rw [BitVec.getMsbD, BitVec.getLsbD, Nat.testBit_eq_decide_div_mod_eq]
  simp [Nat.lt_succ_of_le h]

/-- Settles O5: the edges are cases of `clockBit` and `clockByte`, and SDO reads one bit of the buffer. -/
theorem selectAndClockEdges : Obligations.SelectAndClockEdges := by
  refine ⟨fun s => ⟨fun idle noReset => ⟨_, ?begins, rfl, ?high, rfl⟩, fun ignored => ?noted⟩, fun sdi s =>
    ⟨fun idle => ⟨?unselected, ?released⟩, fun busy bits => ?bit, fun sends last => ?byte, fun state => ?ones,
      fun response bits more => ?sending, fun response bits past => ?sent⟩⟩
  case begins => simp [exec, execSelnAsserted, idle, noReset]; rfl
  case high => simp [State.sdo, idle]
  case noted =>
    have ignored : ¬ (s.port.transaction = .idle ∧ s.pins.resetLow = false) := by
      rintro ⟨idle, noReset⟩
      simp [idle, noReset] at ignored
    simp only [exec, execSelnAsserted]
    rw [if_neg (by simpa using ignored)]
    rfl
  case unselected => simp [exec, execSckRisingEdge, clockBit, idle]
  case released => simp [State.sdo, idle]
  case bit =>
    have few : ¬ 8 ≤ s.port.bitCount + 1 := by omega
    cases transaction : s.port.transaction <;> simp [transaction] at busy <;>
      simp [exec, execSckRisingEdge, clockBit, transaction, few, State.setPort]
  case byte =>
    rcases sends with transaction | transaction <;>
      simp [exec, execSckRisingEdge, clockBit, clockByte, transaction, last, State.setPort]
  case ones => rcases state with transaction | transaction <;> simp [State.sdo, transaction]
  case sending =>
    rw [State.sdo, response, ← getMsbD_eq_decide bits]
    simp [List.getD_eq_getElem?_getD, List.getElem?_eq_getElem more]
  case sent =>
    have ones : (0xFF : Byte).getMsbD s.port.bitCount = true := by
      generalize s.port.bitCount = n at bits
      interval_cases n <;> rfl
    rw [State.sdo, response]
    simp only [List.getD_eq_getElem?_getD, List.getElem?_eq_none past, Option.getD_none, ones]

theorem State.untilTimeout_of_running {s : State} (h : s.PinKept) {n : Nat} (timer : s.port.timer = some n) :
    s.untilTimeout = some (portLimit - n) ∧ (s.port.transaction = .command ∨ s.port.transaction = .response) := by
  have running := h.timer
  rw [timer] at running
  cases transaction : s.port.transaction <;> simp [transaction] at running <;>
    simp [State.untilTimeout, transaction, timer]

theorem State.untilTimeout_of_stopped {s : State} (timer : s.port.timer = none) : s.untilTimeout = none := by
  unfold State.untilTimeout
  split <;> simp [timer]

/-- The end of a transaction by its timer abandons a read, if one is under way (R140, R149). -/
theorem timeoutTransaction_journal {s : State} (h : s.PinKept) :
    (timeoutTransaction s).journal = { s.journal with pinned := false } := by
  simp only [timeoutTransaction, raise_keeps]
  split
  · rfl
  · have unpinned : s.journal.pinned = false := h.pin.trans (Bool.eq_false_of_not_eq_true ‹_›)
    rw [← unpinned]

/-- Settles O7: the timer runs in COMMAND and RESPONSE alone, so the time until it expires is 250 ms less what it
shows. -/
theorem portTimeoutEndsTransaction : Obligations.PortTimeoutEndsTransaction := by
  intro s h
  refine ⟨fun n timer => ?expires, fun timer => ?stopped⟩
  case stopped => simp [exec, execPortTimerExpiry, State.untilTimeout_of_stopped timer]
  case expires =>
    obtain ⟨until_, -⟩ := State.untilTimeout_of_running h timer
    have passed := passTime_pinKept h (250000 - n)
    refine ⟨timeoutTransaction (passTime (250000 - n) s), ?_, rfl, rfl, rfl, rfl, fun c => ?_,
      timeoutTransaction_journal passed, ?_⟩
    · simp only [exec, execPortTimerExpiry, until_]
      rfl
    · unfold timeoutTransaction
      rw [raise_raised]
      exact Iff.rfl
    · apply State.ext_blocks <;> simp [timeoutTransaction]

/-! ## Codes and events that do nothing -/

theorem exec_hostCommand_idle {i : Instr} (host : (hostCommandBytes i).isSome = true) {s : State}
    (other : s.port.transaction ≠ .command) : exec i s = .next s := by
  by_cases wf : i.wellFormed = true
  · obtain ⟨bytes, hb⟩ := Option.isSome_iff_exists.mp host
    obtain ⟨code, args, -, -, he⟩ := exec_hostCommand wf hb s
    rw [he, takeCommand, if_neg other]
  · cases i <;> simp [Instr.wellFormed, hostCommandBytes] at wf host
    simp only [exec, execUnknownCommandCode, takeCommand, if_neg other]
    split <;> rfl

/-- Settles O9: a code with no argument count answers ARG, a row outside COMMAND is not taken, and each event reads
its own condition. -/
theorem unknownCodesAndEventsNotDue : Obligations.UnknownCodesAndEventsNotDue := by
  refine ⟨⟨fun i s host other => exec_hostCommand_idle host other, fun code s wf command => ?unknown⟩,
    fun s => ⟨fun idle => ?sof, fun none heard fell => ?echo, fun stopped order => ?boundary, fun off levels => ?sample,
      fun idle => ?listen⟩⟩
  case unknown =>
    simp only [exec, execUnknownCommandCode, argumentBytes_unknown wf]
    exact congrArg Host.Outcome.next (takeCommand_answering (command := unknownCommand) command rfl _)
  case sof =>
    simp only [exec, execSofMarkSent]
    split
    · exact absurd ‹_› (idle _ _)
    all_goals rfl
  case echo => simp [exec, execEchoResult, none]
  case boundary => simp [exec, execSlotBoundary, stopped]
  case sample => simp [exec, execSampleEvent, execWindowEnd, off]
  case listen =>
    simp only [exec, execListenTimerExpiry]
    split
    · rename_i station timer
      rcases idle with e | e
      · exact absurd station e
      · simp [e] at timer
    · rfl

/-! ## INJECT -/

theorem State.producing_iff (s : State) : s.producing = true ↔
    ((s.ctrl.station = .listen ∧ s.time.quality ≠ .noTime) ∨ s.ctrl.station = .coldstart ∨
      s.ctrl.station = .integrate ∨ s.ctrl.station = .active) ∧ s.ctrl.leavePending = false := by
  cases station : s.ctrl.station <;> simp [State.producing, State.holdsTime, station]

theorem State.queueClosed_iff (s : State) :
    s.queueClosed = true ↔ s.queue.records.length ≥ 32 ∨ s.capture.pendingLoss ≠ none := by
  simp [State.queueClosed, Option.isSome_iff_ne_none]

theorem exec_inject {tag : Word16} {s t : State} {answer : Answer} (h : s.port.transaction = .command)
    (hcommand : injectCommand tag s = (answer, t)) : exec (.inject tag) s =
      .next (t.answering (0x20 :: bytesOf 2 tag.toNat) (answer.status.code :: answer.response)) :=
  congrArg Host.Outcome.next (takeCommand_answering h hcommand _)

/-- Settles O18: the two refusals are the two tests of INJECT in their order, and the HOST_MARK is enqueued. -/
theorem injectMakesMarkOrIsRefused : Obligations.InjectMakesMarkOrIsRefused := by
  intro tag s command producing full bytes
  have produces : s.producing = true ↔ producing := s.producing_iff
  have closed : s.queueClosed = true ↔ full := s.queueClosed_iff
  refine ⟨fun idle => ?state, fun runs isFull => ?full, fun runs notFull => ?mark⟩
  case state =>
    refine exec_inject (answer := .only .state) command ?_
    rw [injectCommand, if_pos (by simpa [← produces] using idle)]
  case full =>
    refine exec_inject (answer := .only .full) command ?_
    rw [injectCommand, if_neg (by simpa [produces] using runs), if_pos (closed.mpr isFull)]
  case mark =>
    refine exec_inject (answer := .only .ok) (t := enqueue (s.hostMark tag) s) command ?_
    rw [injectCommand, if_neg (by simpa [produces] using runs), if_neg (by simpa [closed] using notFull)]

/-! ## START -/

theorem exec_start {s t : State} {answer : Answer} (h : s.port.transaction = .command)
    (hcommand : startCommand s = (answer, t)) :
    exec .start s = .next (t.answering [0x50] (answer.status.code :: answer.response)) :=
  congrArg Host.Outcome.next (takeCommand_answering h hcommand _)

theorem Profile.bytes_eq (p : Profile) : p.bytes = [BitVec.ofNat 8 p.slotCount] ++ bytesOf 2 p.slotLength ++
    [BitVec.ofNat 8 p.window, BitVec.ofNat 8 p.correctionLimit, BitVec.ofNat 8 p.exclusion] ++ bytesOf 2 p.guard := by
  simp [Profile.bytes, bytesOf_one]

/-- Settles O22: START is refused by its two tests, and else enters LISTEN from the started state. -/
theorem startLeavesConfig : Obligations.StartLeavesConfig := by
  intro s command consistent
  refine ⟨fun out => ?state, fun config number => ?conflict, fun config number => ?starts⟩
  case state => exact exec_start (answer := .only .state) command (if_pos out)
  case conflict =>
    refine exec_start (answer := .only .conflict) command ?_
    rw [startCommand, if_neg (not_not.mpr config), if_pos number]
  case starts =>
    have untimed := consistent.noTimeYet config
    have stopped : s.ctrl.slotTimer = none := by
      rw [← Option.isNone_iff_eq_none, ← Option.isSome_eq_false_iff, consistent.slotTimer]
      simp [State.holdsTime, config]
    have entered := enterListen_spec s.started
    refine ⟨enterListen s.started, exec_start (answer := .only .ok) command ?_, ?_, ?_, ?_⟩
    · rw [startCommand, if_neg (not_not.mpr config), if_neg (Nat.not_le.mpr number)]
      rfl
    · rw [← Profile.bytes_eq]
      exact entered
    · rw [entered.time]
      exact if_pos untimed
    · rw [entered.ctrl]
      exact stopped

/-! ## LEAVE -/

theorem exec_leave {s t : State} {answer : Answer} (h : s.port.transaction = .command)
    (hcommand : leaveCommand s = (answer, t)) :
    exec .leave s = .next (t.answering [0x51] (answer.status.code :: answer.response)) :=
  congrArg Host.Outcome.next (takeCommand_answering h hcommand _)

/-- Settles O23: LEAVE by the leave-pending flag and the station state. -/
theorem leaveDrainsOrDeparts : Obligations.LeaveDrainsOrDeparts := by
  intro s command
  refine ⟨fun refused => exec_leave (answer := .only .state) command ?_,
    fun pending active => exec_leave (answer := .only .ok) command ?_,
    fun pending waiting => ⟨enterDeparted s, exec_leave (answer := .only .ok) command ?_, enterDeparted_spec s⟩⟩
  · unfold leaveCommand
    split
    · rfl
    · rcases refused with pending | station | station | station
      · exact absurd pending ‹_›
      all_goals rw [station]
  · simp [leaveCommand, pending, active, State.setCtrl]
  · rcases waiting with station | station | station <;> simp [leaveCommand, pending, station]

/-! ## REJOIN -/

/-- The slot start found for a common time is the first one later than it (R18). -/
theorem slotStartAfter_first {p : Profile} {t : CommonTime} (inRange : p.inRange = true) :
    FirstSlotStartLater p t (slotStartAfter p t) := by
  have length : 0 < p.slotLength := by
    simp only [Profile.inRange, Bool.and_eq_true, decide_eq_true_eq] at inRange
    omega
  have low : t.offset / p.slotLength * p.slotLength ≤ t.offset := Nat.div_mul_le_self _ _
  have high : t.offset < (t.offset / p.slotLength + 1) * p.slotLength := by
    rw [Nat.mul_comm]
    exact Nat.lt_mul_div_succ _ length
  unfold slotStartAfter SlotStart.next
  dsimp only
  split
  case isTrue more =>
    refine .inl ⟨rfl, more, high, ?_⟩
    rw [Nat.succ_mul]
    exact Nat.add_le_add_right low _
  case isFalse last =>
    have fewer : p.slotCount - 1 ≤ t.offset / p.slotLength := Nat.sub_le_of_le_add (Nat.le_of_not_lt last)
    exact .inr ⟨rfl, rfl, (Nat.mul_le_mul_right _ fewer).trans low⟩

theorem exec_rejoin {s t : State} {answer : Answer} (h : s.port.transaction = .command)
    (hcommand : rejoinCommand s = (answer, t)) :
    exec .rejoin s = .next (t.answering [0x52] (answer.status.code :: answer.response)) :=
  congrArg Host.Outcome.next (takeCommand_answering h hcommand _)

/-- Settles O24: the slot timer may be set before the entry to LISTEN as well as after it, so REJOIN is one entry to
LISTEN from a state written out. -/
theorem rejoinReturnsToListen : Obligations.RejoinReturnsToListen := by
  refine ⟨fun p t inRange _ => slotStartAfter_first inRange, fun s command => ⟨fun other => ?refused, fun departed consistent => ?_⟩⟩
  case refused => exact exec_rejoin (answer := .only .state) command (if_neg other)
  have quality : (enterListen (rejoinBlocks s)).time.quality = .noTime ↔ s.time.quality = .noTime := by
    rw [(enterListen_spec _).time]
    by_cases h : s.time.quality = .noTime <;> simp [TimeUnit.idleQuality, rejoinBlocks, h]
  by_cases untimed : s.time.quality = .noTime
  · have stopped : s.ctrl.slotTimer = none := by
      rw [← Option.isNone_iff_eq_none, ← Option.isSome_eq_false_iff, consistent.slotTimer]
      simp [State.holdsTime, departed]
    refine ⟨enterListen (rejoinBlocks s), exec_rejoin (answer := .only .ok) command ?_, ?_⟩
    · simp only [rejoinCommand, if_pos departed, if_pos (quality.mpr untimed)]
    · rw [if_pos untimed, ← stopped]
      exact enterListen_spec (rejoinBlocks s)
  · refine ⟨restartSlotTimer (enterListen (rejoinBlocks s)), exec_rejoin (answer := .only .ok) command ?_, ?_⟩
    · simp only [rejoinCommand, if_pos departed, if_neg (mt quality.mp untimed)]
    · rw [if_neg untimed, restartSlotTimer_enterListen]
      exact enterListen_spec (restartSlotTimer (rejoinBlocks s))

end Sys2Proof.Machine
end

section
/-! SUPPORT. A host command clocked in bit by bit: no command reads the bytes under way, so the command taken at the last
bit is the command's row. -/

namespace Sys2Proof.Machine

/-! ## No command reads the bytes under way -/

/-- s with nothing of the bytes under way held: no byte received and no bit of the next. -/
def State.erased (s : State) : State := s.setPort { s.port with received := [], bitCount := 0, shift := 0 }

theorem raiseIf_erased (b : Bool) (c : Cause) (s : State) : raiseIf b c s.erased = (raiseIf b c s).erased := by
  cases b <;> rfl

theorem holdPersistent_erased (s : State) : holdPersistent s.erased = (holdPersistent s).erased := by
  show raiseIf s.duplicated _ (raiseIf s.timeSuspect _ s.erased) = _
  rw [raiseIf_erased, raiseIf_erased]
  rfl

theorem changeStation_erased (station : StationState) {s t : State} (same : t = s.erased) :
    changeStation station t = (changeStation station s).erased := by
  rw [same]
  exact holdPersistent_erased (raise .stateChange { s with
    ctrl := { s.ctrl with station := station }
    line := { s.line with transmitter := s.line.transmitter.withdraw }
    time := s.time.requalify station })

theorem enterListen_erased (s : State) : enterListen s.erased = (enterListen s).erased :=
  changeStation_erased .listen rfl

theorem enterDeparted_erased (s : State) : enterDeparted s.erased = (enterDeparted s).erased :=
  changeStation_erased .departed rfl

theorem enqueue_erased (d : Draft) (s : State) : enqueue d s.erased = (enqueue d s).erased :=
  (congrArg (raiseIf _ _) (raiseIf_erased _ _ (State.setJournal (State.setQueue s _) _))).trans (raiseIf_erased _ _ _)

/-- A command function neither reads nor writes the bytes under way. -/
def ReadsNoBytes (command : State → Answer × State) : Prop := ∀ s, command s.erased = ((command s).1, (command s).2.erased)

theorem commandOf_readsNoBytes (code : Byte) (args : List Byte) : ReadsNoBytes (commandOf code args) := by
  refine commandOf_ind (P := ReadsNoBytes) (fun _ => rfl) (fun _ => rfl) (fun s => ?attention) (fun n s => ?peer) (fun _ => rfl)
    (fun s => ?record) (fun s => ?peek) (fun tag s => ?inject) (fun m s => ?mask) (fun _ => rfl) (fun p s => ?profile)
    (fun n x d c s => ?input) (fun s => ?start) (fun s => ?leave) (fun s => ?rejoin) (fun _ => rfl) code args
  case attention => exact congrArg (Prod.mk _) (holdPersistent_erased (s.setPort { s.port with attention := 0 }))
  case peer => unfold readPeerCommand; split <;> rfl
  case record =>
    unfold readRecordCommand
    rw [show s.erased.journal = s.journal from rfl]
    split <;> rfl
  case peek =>
    unfold peekRecordCommand
    rw [show s.erased.journal = s.journal from rfl]
    split <;> rfl
  case inject =>
    unfold injectCommand
    rw [show s.erased.producing = s.producing from rfl, show s.erased.queueClosed = s.queueClosed from rfl]
    split <;> [rfl; skip]
    split <;> [rfl; skip]
    exact congrArg (Prod.mk _) (enqueue_erased _ s)
  case mask => unfold setMaskCommand; split <;> rfl
  case profile =>
    unfold writeProfileCommand
    rw [show s.erased.ctrl = s.ctrl from rfl]
    split <;> [rfl; split <;> rfl]
  case input =>
    unfold writeInputCommand
    rw [show s.erased.ctrl = s.ctrl from rfl]
    split <;> [rfl; skip]
    dsimp only
    split <;> [split <;> rfl; rfl]
  case start =>
    unfold startCommand
    rw [show s.erased.ctrl = s.ctrl from rfl, show s.erased.settings = s.settings from rfl,
      show s.erased.own = s.own from rfl]
    split <;> [rfl; skip]
    split <;> [rfl; exact congrArg (Prod.mk _) (enterListen_erased s.started)]
  case leave =>
    unfold leaveCommand
    rw [show s.erased.ctrl = s.ctrl from rfl]
    split
    · rfl
    · split
      · rfl
      case h_2 | h_3 | h_4 => exact congrArg (Prod.mk _) (enterDeparted_erased s)
      all_goals rfl
  case rejoin =>
    have entered : enterListen (rejoinBlocks s.erased) = (enterListen (rejoinBlocks s)).erased :=
      enterListen_erased (rejoinBlocks s)
    unfold rejoinCommand
    rw [show s.erased.ctrl = s.ctrl from rfl, entered]
    split <;> [skip; rfl]
    dsimp only
    rw [show (enterListen (rejoinBlocks s)).erased.time = (enterListen (rejoinBlocks s)).time from rfl]
    split <;> rfl

/-- The state a command leaves does not depend on the bytes under way. -/
theorem answerWith_of_erased {command : State → Answer × State} (h : ReadsNoBytes command) (bytes : List Byte)
    {s t : State} (same : t.erased = s.erased) : answerWith bytes command t = answerWith bytes command s := by
  have erase (u : State) : answerWith bytes command u = answerWith bytes command u.erased := by
    rw [answerWith_eq, answerWith_eq, h u]
    rfl
  rw [erase t, erase s, same]

/-! ## Bits and bytes -/

theorem execAll_append (l m : List Instr) {s t : State} (h : execAll l s = .next t) :
    execAll (l ++ m) s = execAll m t := by
  induction l generalizing s with
  | nil =>
    rw [execAll, Host.Outcome.next.injEq] at h
    rw [h, List.nil_append]
  | cons i l ih =>
    rw [List.cons_append, execAll]
    rw [execAll] at h
    split at h
    next => exact ih h
    all_goals simp at h

/-- s with the byte under way begun anew. -/
def State.atByteStart (s : State) : State := s.setPort { s.port with bitCount := 0, shift := 0 }

/-- A bit that does not complete a byte is shifted in. -/
theorem exec_sck_shift {s : State} (command : s.port.transaction = .command) (few : s.port.bitCount < 7) (bit : Bool) :
    exec (.sckRisingEdge bit) s = .next (s.setPort { s.port with
      bitCount := s.port.bitCount + 1, shift := (s.port.shift <<< 1) ||| (if bit then 1 else 0) }) := by
  have : ¬ 8 ≤ s.port.bitCount + 1 := by omega
  simp [exec, execSckRisingEdge, clockBit, command, this]

/-- The eighth bit completes the byte. -/
theorem exec_sck_byte {s : State} (command : s.port.transaction = .command) (last : s.port.bitCount = 7) (bit : Bool) :
    exec (.sckRisingEdge bit) s = .next (clockByte ((s.port.shift <<< 1) ||| (if bit then 1 else 0))
      s.atByteStart) := by
  simp [exec, execSckRisingEdge, clockBit, command, last, State.atByteStart]

/-- Eight bits shifted in, most significant first, are the byte, whatever was held before. -/
theorem shiftIn_bits (x b : Byte) : (bitsOfByte b).foldl (fun (x : Byte) (bit : Bool) => (x <<< 1) ||| (if bit then 1 else 0)) x = b := by
  have bit (b : Bool) (i : Nat) : (if b then (1 : Byte) else 0).getLsbD i = (decide (i = 0) && b) := by
    cases b <;> cases i <;> simp
  apply BitVec.eq_of_getLsbD_eq
  intro i hi
  simp only [bitsOfByte, List.foldl_cons, List.foldl_nil, BitVec.getLsbD_or, BitVec.getLsbD_shiftLeft, bit]
  interval_cases i <;> simp [BitVec.getMsbD]

/-- The edges of one byte from the first bit on do what the whole byte does. -/
theorem execAll_byte {s : State} (command : s.port.transaction = .command) (first : s.port.bitCount = 0) (b : Byte) :
    execAll ((bitsOfByte b).map .sckRisingEdge) s = .next (clockByte b s.atByteStart) := by
  have shifted : ∀ (l : List Bool) (last : Bool) (t : State), t.port.transaction = .command → t.port.bitCount + l.length = 7 →
      t.atByteStart = s.atByteStart →
      execAll ((l ++ [last]).map .sckRisingEdge) t = .next (clockByte
        ((l ++ [last]).foldl (fun (x : Byte) (bit : Bool) => (x <<< 1) ||| (if bit then 1 else 0)) t.port.shift)
        s.atByteStart) := by
    intro l last
    induction l with
    | nil =>
      intro t command count same
      rw [List.nil_append, List.map_singleton, execAll, exec_sck_byte command (by simpa using count)]
      simp only [execAll, List.foldl_cons, List.foldl_nil]
      rw [same]
    | cons bit l ih =>
      intro t command count same
      rw [List.length_cons] at count
      rw [List.cons_append, List.map_cons, execAll, exec_sck_shift command (by omega)]
      exact ih _ command (by show t.port.bitCount + 1 + l.length = 7; omega) same
  have all := shifted [b.getMsbD 0, b.getMsbD 1, b.getMsbD 2, b.getMsbD 3, b.getMsbD 4, b.getMsbD 5, b.getMsbD 6]
    (b.getMsbD 7) s command (by rw [first]; rfl) rfl
  refine Eq.trans all ?_
  congr 2
  exact shiftIn_bits _ _

/-- A byte that completes no command is received and no more. -/
theorem clockByte_receives {s : State} (command : s.port.transaction = .command) {b : Byte}
    (incomplete : completeCommand (s.port.received ++ [b]) = false) :
    clockByte b s = s.setPort { s.port with received := s.port.received ++ [b] } := by
  simp [clockByte, command, incomplete]

/-- The byte that completes a command takes it. -/
theorem clockByte_takes {s : State} (command : s.port.transaction = .command) {b code : Byte} {args : List Byte}
    (bytes : s.port.received ++ [b] = code :: args) (complete : completeCommand (code :: args) = true) :
    clockByte b s = answerWith (code :: args) (commandOf code args) s := by
  have taken : clockByte b s = answerWith (code :: args) (commandOf code args)
      (s.setPort { s.port with received := code :: args }) := by
    unfold clockByte
    split
    case h_2 => simp only [bytes, complete, ↓reduceIte, List.getD_cons_zero, List.tail_cons]
    all_goals simp_all
  rw [taken]
  exact answerWith_of_erased (commandOf_readsNoBytes code args) _ rfl

/-- Bytes of which only the last completes a command are received one by one, and the command is taken. -/
theorem execAll_bytes {code : Byte} {args : List Byte} (complete : completeCommand (code :: args) = true)
    (rest : List Byte) (b : Byte) {s : State} (command : s.port.transaction = .command) (first : s.port.bitCount = 0)
    (bytes : s.port.received ++ (rest ++ [b]) = code :: args)
    (incomplete : ∀ l x, l ++ [x] <+: s.port.received ++ rest → completeCommand (l ++ [x]) = false) :
    execAll (clockEdges (rest ++ [b])) s = .next (answerWith (code :: args) (commandOf code args) s) := by
  have edges (x : Byte) (l : List Byte) : clockEdges (x :: l) = (bitsOfByte x).map .sckRisingEdge ++ clockEdges l := by
    simp [clockEdges]
  induction rest generalizing s with
  | nil =>
    have taken := execAll_byte command first b
    rw [clockByte_takes (s := s.atByteStart) command bytes complete,
      answerWith_of_erased (commandOf_readsNoBytes code args) _ (s := s) (t := s.atByteStart) rfl] at taken
    rw [List.nil_append, edges, execAll_append _ _ taken]
    rfl
  | cons x rest ih =>
    have received := execAll_byte command first x
    rw [clockByte_receives (s := s.atByteStart) command (incomplete s.port.received x ⟨rest, by simp⟩)] at received
    rw [List.cons_append, edges, execAll_append _ _ received]
    have step := ih (s := s.atByteStart.setPort
      { s.atByteStart.port with received := s.port.received ++ [x] }) command rfl (by simpa using bytes)
      (fun l y begins => incomplete l y (by simpa using begins))
    refine step.trans (congrArg Host.Outcome.next ?_)
    exact answerWith_of_erased (commandOf_readsNoBytes code args) _ rfl

/-! ## The rows -/

/-- The bytes of a host command are a code with as many arguments as it takes, or a code that names none, alone. -/
theorem hostCommandBytes_length {i : Instr} (wf : i.wellFormed = true) {code : Byte} {args : List Byte}
    (h : hostCommandBytes i = some (code :: args)) :
    argumentBytes code = some args.length ∨ args = [] := by
  cases i <;> simp only [hostCommandBytes, Option.some.injEq, reduceCtorEq, List.cons.injEq, List.cons_append] at h
  case unknownCommandCode => exact .inr h.2.symm
  all_goals
    obtain ⟨rfl, rfl⟩ := h
    exact .inl rfl

/-- Settles O8: the edges of the bytes before the last complete no command, and the last byte takes the row's. -/
theorem clockedCommandEqualsItsRow : Obligations.ClockedCommandEqualsItsRow := by
  intro i bytes s wf host command none first
  obtain ⟨code, args, rfl, complete, row⟩ := exec_hostCommand wf host s
  rw [row, takeCommand, if_pos command]
  have nonempty : code :: args ≠ [] := List.cons_ne_nil _ _
  have ends := List.dropLast_concat_getLast nonempty
  rw [← ends, ends]
  have edges := execAll_bytes complete (code :: args).dropLast ((code :: args).getLast nonempty) command first
    (by rw [none, List.nil_append, ends]) (fun l x before => ?_)
  · rwa [ends] at edges
  · rw [none, List.nil_append] at before
    have shorter := before.length_le
    rw [List.length_append, List.length_singleton, List.length_dropLast, List.length_cons] at shorter
    cases l with
    | nil =>
      rcases hostCommandBytes_length wf host with count | empty
      · have begins := before.trans (List.dropLast_prefix _)
        simp only [List.nil_append, List.cons_prefix_cons] at begins
        obtain ⟨rfl, -⟩ := begins
        simp only [List.nil_append, completeCommand, count, List.length_nil]
        simp at shorter ⊢
        omega
      · simp [empty] at shorter
    | cons y l =>
      have begins := before.trans (List.dropLast_prefix _)
      simp only [List.cons_append, List.cons_prefix_cons] at begins
      obtain ⟨rfl, -⟩ := begins
      rcases hostCommandBytes_length wf host with count | empty
      · simp only [List.cons_append, completeCommand, count]
        simp at shorter ⊢
        omega
      · simp [empty] at shorter

end Sys2Proof.Machine
end

section
/-! SUPPORT. The passing of local time, and what the part does while no command waits. -/

namespace Sys2Proof.Machine

/-! ## Common time as local time passes -/

/-- Common time advances by the local time that passes after the hold. -/
theorem TimeUnit.pass_count (t : TimeUnit) (p : Profile) (dt : Nat) (positive : 0 < p.cycle) :
    (t.pass dt).count p = (t.count p + (dt - t.holdCount)) % p.cycle := by
  have sum : ((t.localCounter + dt : Nat) : Int) + (t.correctionOffset - (min t.holdCount dt : Nat)) =
      t.localCounter + t.correctionOffset + (dt - t.holdCount : Nat) := by omega
  have nonneg : 0 ≤ ((t.localCounter : Int) + t.correctionOffset) % p.cycle := Int.emod_nonneg _ (by omega)
  have same : (((t.count p + (dt - t.holdCount)) % p.cycle : Nat) : Int) =
      ((t.localCounter : Int) + t.correctionOffset + (dt - t.holdCount : Nat)) % p.cycle := by
    rw [Int.natCast_emod, Int.natCast_add, TimeUnit.count, Int.toNat_of_nonneg nonneg, Int.emod_add_emod]
  unfold TimeUnit.count TimeUnit.pass at *
  dsimp only
  rw [sum, ← same, Int.toNat_natCast]

/-- During a hold common time stands. -/
theorem TimeUnit.pass_count_held (t : TimeUnit) (p : Profile) {dt : Nat} (held : dt ≤ t.holdCount) :
    (t.pass dt).count p = t.count p := by
  have sum : ((t.localCounter + dt : Nat) : Int) + (t.correctionOffset - (min t.holdCount dt : Nat)) =
      t.localCounter + t.correctionOffset := by omega
  unfold TimeUnit.count TimeUnit.pass
  dsimp only
  rw [sum]

/-! ## With no command waiting -/

theorem step_takes_event {s : State} {e : Instr} (none_waits : s.pending = []) (next : s.nextOwnEvent = some e) :
    step s = exec e s := by
  simp only [step, none_waits, next]

theorem step_lets_pass {s : State} (none_waits : s.pending = []) (next : s.nextOwnEvent = none) :
    step s = .next (idleMicrosecond s) := by
  simp only [step, none_waits, next]

theorem nextOwnEvent_mem {s : State} (running : s.pins.resetLow = false) (due : s.dueEvents ≠ []) :
    ∃ e ∈ s.dueEvents, s.nextOwnEvent = some e := by
  obtain ⟨e, rest, h⟩ := List.exists_cons_of_ne_nil due
  rw [h]
  simp only [State.nextOwnEvent, running, h, Bool.false_eq_true, ↓reduceIte]
  have inside := Nat.mod_lt (Config.dueChoice s.time.localCounter (rest.length + 1)) (Nat.succ_pos rest.length)
  exact ⟨_, by rw [List.getD_eq_getElem _ _ (by simpa using inside)]; exact List.getElem_mem _, rfl⟩

/-- Settles O2: no command waiting, the step is the next own event, or 1 µs of `passTime`. -/
theorem localTimePasses : Obligations.LocalTimePasses := by
  refine ⟨fun s none_waits => ⟨fun reset => ?_, fun running due => ?_, fun running none_due positive => ?_⟩,
    fun s => ⟨rfl, _, rfl, ?_, ?_, rfl⟩⟩
  · rw [step_lets_pass none_waits (by simp [State.nextOwnEvent, reset]), idleMicrosecond, if_pos reset]
  · obtain ⟨e, member, next⟩ := nextOwnEvent_mem running due
    exact ⟨e, member, step_takes_event none_waits next⟩
  · have stepped : step s = .next (passTime 1 s) := by
      rw [step_lets_pass none_waits (by simp [State.nextOwnEvent, none_due])]
      simp [idleMicrosecond, running]
    refine ⟨passTime 1 s, stepped, rfl, ?_, fun free => ?_, fun held => s.time.pass_count_held _ held, rfl⟩
    · show s.time.holdCount - min s.time.holdCount 1 = _
      omega
    · exact (s.time.pass_count _ 1 positive).trans (by rw [free])
  · show s.time.holdCount - min s.time.holdCount s.time.holdCount = 0
    omega
  · exact congrArg (CommonTime.ofCount s.roundLength) (s.time.pass_count_held _ le_rfl)

end Sys2Proof.Machine
end

section
/-! SUPPORT. Bursts and the classes of received frames: what the receiver holds, the class of a frame, and what the
blocks leave of the Line Interface. -/

namespace Sys2Proof.Machine

/-! ## The class of a frame -/

theorem Profile.offSlot_iff (p : Profile) (f : Frame) (sof : CommonTime) :
    p.offSlot f sof = true ↔ OffSlotFrame p f sof := by
  simp [Profile.offSlot, OffSlotFrame, or_assoc]

/-- s with the burst under way ended. -/
def State.burstEnded (s : State) : State := s.setLine { s.line with receiver := .idle }

theorem takeBurst_eq {bytes : List Byte} {order : List FrameAct} {s : State} (burst : s.line.receiver ≠ .idle) :
    takeBurst bytes order s = settleFrame order (s.classifyFrame bytes) s.burstEnded := by
  unfold takeBurst
  split
  · contradiction
  all_goals rfl

section

variable {s : State} {bytes : List Byte} {sof : CommonTime} {localAt : Nat}

theorem classifyFrame_preamble (h : s.line.receiver = .preamble) : s.classifyFrame bytes = .garbled := by
  simp [State.classifyFrame, h]

theorem classifyFrame_unread (h : s.line.receiver = .frame sof localAt) (unread : readFrame s.roundLength bytes = none) :
    s.classifyFrame bytes = .garbled := by
  simp [State.classifyFrame, h, unread]

variable {f : Frame}

theorem classifyFrame_foreign (h : s.line.receiver = .frame sof localAt) (read : readFrame s.roundLength bytes = some f)
    (other : s.settings.signature ≠ some f.signature) : s.classifyFrame bytes = .foreign := by
  simp [State.classifyFrame, h, read, other]

theorem classifyFrame_offSlot (h : s.line.receiver = .frame sof localAt) (read : readFrame s.roundLength bytes = some f)
    (same : s.settings.signature = some f.signature) (time : s.holdsTime = true)
    (off : OffSlotFrame s.settings.profile f sof) : s.classifyFrame bytes = .offSlot := by
  simp [State.classifyFrame, h, read, same, time, (Profile.offSlot_iff ..).mpr off]

theorem classifyFrame_valid (h : s.HearsValid bytes f sof localAt) : s.classifyFrame bytes = .valid f sof localAt := by
  have inSlot : ¬ (s.holdsTime = true ∧ s.settings.profile.offSlot f sof = true) := fun ⟨time, off⟩ =>
    h.inSlot time ((Profile.offSlot_iff ..).mp off)
  simp [State.classifyFrame, h.receiver, h.frame, h.signature, inSlot]

/-- A valid frame is handed to the blocks, the receiver idle and the frame counted. -/
theorem takeBurst_valid (h : s.HearsValid bytes f sof localAt) (order : List FrameAct) :
    takeBurst bytes order s = handOverFrame f sof localAt order s.afterValid := by
  rw [takeBurst_eq (by simp [h.receiver]), classifyFrame_valid h]
  rfl

end

/-! ## What the blocks leave of the Line Interface -/

/-- An order not yet begun may have been withdrawn; nothing else of the Line Interface differs. -/
def Withdrawn (s t : State) : Prop :=
  t.line = s.line ∨ t.line = { s.line with transmitter := s.line.transmitter.withdraw }

theorem Withdrawn.trans {s t u : State} (h : Withdrawn s t) (k : Withdrawn t u) : Withdrawn s u := by
  have twice (x : Transmitter) : x.withdraw.withdraw = x.withdraw := by cases x <;> rfl
  rcases h with h | h <;> rcases k with k | k <;> simp [Withdrawn, h, k, twice]

theorem lineActivity_line (s : State) : (lineActivity s).line = s.line :=
  lineActivity_ind (P := fun t => t.line = s.line) s (fun _ => rfl) rfl

theorem controllerTakeFrame_withdrawn (f : Frame) (localAt : Nat) (s : State) :
    Withdrawn s (controllerTakeFrame f localAt s) :=
  controllerTakeFrame_ind f localAt s (fun _ _ => .inr (enterFault_spec s).line)
    (fun _ _ => .inr (enterIntegrate_spec f localAt s).line) (fun _ => .inl (lineActivity_line s)) (fun _ _ _ _ => .inl rfl)
    (.inl rfl)

theorem frameAct_withdrawn (i : Bool) (f : Frame) (sof : CommonTime) (localAt : Nat) (s : State) (a : FrameAct) :
    Withdrawn s (frameAct i f sof localAt s a) := by
  cases a
  case controller => exact controllerTakeFrame_withdrawn f localAt s
  all_goals exact .inl (by simp [frameAct])

theorem handOverFrame_withdrawn (f : Frame) (sof : CommonTime) (localAt : Nat) (order : List FrameAct) (s : State) :
    Withdrawn s (handOverFrame f sof localAt order s) := by
  unfold handOverFrame
  generalize s.integratesOn f = i
  generalize completeOrder allFrameActs order = acts
  induction acts generalizing s with
  | nil => exact .inl rfl
  | cons a acts ih => exact (frameAct_withdrawn i f sof localAt s a).trans (ih _)

theorem controllerTakeGarbled_withdrawn (s : State) : Withdrawn s (controllerTakeGarbled s) :=
  controllerTakeGarbled_ind s (fun _ => .inl (lineActivity_line s)) (fun _ => .inr (enterListen_spec s).line) (.inl rfl)

theorem controllerTakeForeign_withdrawn (s : State) : Withdrawn s (controllerTakeForeign s) :=
  controllerTakeForeign_ind s (fun _ => .inl (lineActivity_line s)) (.inl rfl)

/-- The state in which a classified frame is settled: one class counter up. -/
def FrameClass.counted : FrameClass → State → State
  | .garbled, s => s.setLine { s.line with garbled := min (s.line.garbled + 1) 65535 }
  | .foreign, s => s.setLine { s.line with foreign := min (s.line.foreign + 1) 65535 }
  | .offSlot, s => s.setLine { s.line with offSlot := min (s.line.offSlot + 1) 65535 }
  | .valid _ _ _, s => s.setLine { s.line with valid := min (s.line.valid + 1) 65535 }

theorem settleFrame_withdrawn (order : List FrameAct) (c : FrameClass) (s : State) :
    Withdrawn (c.counted s) (settleFrame order c s) := by
  cases c
  case garbled => exact controllerTakeGarbled_withdrawn _
  case foreign => exact controllerTakeForeign_withdrawn _
  case offSlot => exact .inl rfl
  case valid => exact handOverFrame_withdrawn ..

/-- The four class counters of the Line Interface. -/
def LineInterface.classCounts (l : LineInterface) : Nat × Nat × Nat × Nat := (l.valid, l.garbled, l.foreign, l.offSlot)

theorem Withdrawn.fields {s t : State} (h : Withdrawn s t) :
    t.line.receiver = s.line.receiver ∧ t.line.echoFailures = s.line.echoFailures ∧
      t.line.classCounts = s.line.classCounts := by
  rcases h with h | h <;> rw [h] <;> exact ⟨rfl, rfl, rfl⟩

/-- Settles O25: a burst that ends is settled by its class, and no block changes the Line Interface beyond an order. -/
theorem burstTakenAsOneFrame : Obligations.BurstTakenAsOneFrame := by
  refine ⟨fun s => ⟨fun on idle free => ?_, fun blocked => ?_, fun preamble => ?_, fun pattern other => ?_⟩,
    fun bytes order s => ⟨fun idle => ?_, fun burst => ⟨_, rfl, ?_⟩⟩⟩
  · have free : s.line.transmitter.isSending = false := by
      rcases free with h | ⟨o, h⟩ <;> rw [h] <;> rfl
    simp [exec, execBurstBegins, on, idle, free, State.setLine]
  · have blocked : ¬ ((s.line.receiverOn = true ∧ s.line.receiver = .idle) ∧ s.line.transmitter.isSending = false) := by
      rintro ⟨⟨on, idle⟩, free⟩
      rcases blocked with h | h | ⟨o, n, h⟩ | ⟨o, n, h⟩
      · simp [on] at h
      · exact h idle
      all_goals
        rw [h] at free
        exact absurd free (by simp [Transmitter.isSending])
    simp [exec, execBurstBegins, blocked]
  · simp [exec, execSofMarkReceived, preamble, preamblePattern, State.setLine]
  · have other : ¬ (s.line.receiver = .preamble ∧ pattern = 0x559B) := by tauto
    simp only [exec, execSofMarkReceived, preamblePattern, Bool.and_eq_true, beq_iff_eq, other, ↓reduceIte]
  · simp [exec, execFrameTaken, takeBurst, idle]
  · have outside := takeBurst_outside bytes order s
    obtain ⟨settings, pins⟩ := Prod.mk.inj outside
    have counted := fun c (class_ : s.classifyFrame bytes = c) =>
      show (takeBurst bytes order s).line.classCounts = (c.counted s.burstEnded).line.classCounts by
        rw [takeBurst_eq burst, class_]
        exact (settleFrame_withdrawn order c _).fields.2.2
    obtain ⟨receiver, echoFailures, -⟩ := (settleFrame_withdrawn order (s.classifyFrame bytes) s.burstEnded).fields
    rw [← takeBurst_eq burst] at receiver echoFailures
    have sameLine (c : FrameClass) : (c.counted s.burstEnded).line.receiver = .idle ∧
        (c.counted s.burstEnded).line.echoFailures = s.line.echoFailures := by cases c <;> exact ⟨rfl, rfl⟩
    refine ⟨receiver.trans (sameLine _).1, echoFailures.trans (sameLine _).2, settings, pins,
      fun sof localAt h => ⟨fun f read => ⟨fun other => counted _ (classifyFrame_foreign h read other),
        fun same time off => ?_, fun valid => counted _ (classifyFrame_valid valid)⟩,
        fun unread => counted _ (classifyFrame_unread h unread)⟩,
      fun preamble => counted _ (classifyFrame_preamble preamble)⟩
    rw [takeBurst_eq burst, classifyFrame_offSlot h read same time off]
    rfl

end Sys2Proof.Machine
end

section
/-! SUPPORT. The orders of acts: each act once, as given; and what each act of a boundary is. -/

namespace Sys2Proof.Machine

/-! ## Orders in which every act stands once -/

section

variable {α : Type} [DecidableEq α]

theorem mem_firstOccurrences (x : α) (l : List α) : x ∈ firstOccurrences l ↔ x ∈ l := by
  induction l with
  | nil => rfl
  | cons y l ih =>
    rw [firstOccurrences, List.mem_cons, List.mem_cons, List.mem_filter, ih, decide_eq_true_iff]
    tauto

theorem nodup_firstOccurrences (l : List α) : (firstOccurrences l).Nodup := by
  induction l with
  | nil => exact .nil
  | cons y l ih =>
    rw [firstOccurrences, List.nodup_cons]
    exact ⟨by simp, ih.filter _⟩

/-- Entries that stand once come first, as given. -/
theorem prefix_firstOccurrences {given : List α} (nodup : given.Nodup) (l : List α) :
    given <+: firstOccurrences (given ++ l) := by
  induction given with
  | nil => exact List.nil_prefix
  | cons x given ih =>
    rw [List.nodup_cons] at nodup
    obtain ⟨rest, h⟩ := ih nodup.2
    have kept : given.filter (fun y => y ≠ x) = given :=
      List.filter_eq_self.mpr fun y hy => by simpa using fun e : y = x => nodup.1 (e ▸ hy)
    refine ⟨rest.filter fun y => y ≠ x, ?_⟩
    rw [List.cons_append, List.cons_append, firstOccurrences, ← h, List.filter_append, kept]

theorem completeOrder_perm {all : List α} (nodup : all.Nodup) {given : List α} (known : ∀ x ∈ given, x ∈ all) :
    (completeOrder all given).Perm all := by
  refine (List.perm_ext_iff_of_nodup (nodup_firstOccurrences _) nodup).mpr fun x => ?_
  rw [mem_firstOccurrences, List.mem_append]
  exact ⟨fun h => h.elim (known x) id, .inr⟩

/-- An order whose entries stand once begins the acts; one that is longer than the acts does not occur. -/
theorem completeOrder_begins {all given : List α} (nodup : given.Nodup) :
    given.take (completeOrder all given).length = (completeOrder all given).take given.length := by
  obtain ⟨rest, h⟩ := prefix_firstOccurrences nodup all
  rw [completeOrder, ← h]
  simp

end

theorem mem_allFrameActs (a : FrameAct) : a ∈ allFrameActs := by cases a <;> decide

theorem mem_allBoundaryActs (a : BoundaryAct) : a ∈ allBoundaryActs := by cases a <;> decide

theorem frameActs_perm (order : List FrameAct) : (completeOrder allFrameActs order).Perm allFrameActs :=
  completeOrder_perm (by decide) fun a _ => mem_allFrameActs a

theorem boundaryActs_perm (order : List BoundaryAct) : (completeOrder allBoundaryActs order).Perm allBoundaryActs :=
  completeOrder_perm (by decide) fun a _ => mem_allBoundaryActs a

/-! ## The acts -/

theorem afterValid_integratesOn (s : State) (f : Frame) : s.afterValid.integratesOn f = s.integratesOn f := rfl

/-- Settles O27: both orders are completed to permutations of the acts, and each act is its block's function. -/
theorem eachBlockTakesTheEventOnce : Obligations.EachBlockTakesTheEventOnce := by
  refine ⟨fun bytes order s f sof localAt h => ⟨_, frameActs_perm order, completeOrder_begins, ?_⟩,
    fun _ _ _ _ _ => ⟨rfl, rfl, rfl, rfl, rfl⟩, fun order s b h => ⟨_, boundaryActs_perm order, completeOrder_begins, ?_⟩,
    fun b run => ⟨rfl, rfl, fun first => ⟨?_, ?_, run.state.evaluatesAt b && run.state.members.checkFails, ?_, ?_⟩, fun later => ⟨?_, ?_, ?_⟩, fun none_made => ?_, fun r made => ?_,
      fun none_made => ?_, fun made => ?_⟩⟩
  · simp only [exec, execFrameTaken, takeBurst_valid h, handOverFrame, afterValid_integratesOn]
  · simp only [exec, execSlotBoundary, h]
    rfl
  · simp [boundaryAct, first]
  · simp [boundaryAct, first]
  · rw [boundaryAct, if_pos first]
  · simp [State.evaluatesAt, Membership.checkFails, and_assoc]
  · simp [boundaryAct, later]
  · simp [boundaryAct, later]
  · simp [boundaryAct, later]
  · simp [boundaryAct, none_made]
  · simp [boundaryAct, made]
  · simp [boundaryAct, none_made]
  · simp [boundaryAct, made]

end Sys2Proof.Machine
end

section
/-! SUPPORT. The deviation of a frame, and what the Station Controller makes of the frames that a burst is taken as. -/

namespace Sys2Proof.Machine

/-! ## The deviation -/

theorem Profile.sofOffset_lt {p : Profile} (h : p.inRange = true) {station : StationNo} (inside : station.val < p.slotCount) :
    p.sofOffset station < p.roundLength := by
  have slotLength : 300 ≤ p.slotLength := by
    simp only [Profile.inRange, Bool.and_eq_true, decide_eq_true_eq] at h
    omega
  have slots : (station.val + 1) * p.slotLength ≤ p.slotCount * p.slotLength := Nat.mul_le_mul_right _ inside
  rw [Nat.succ_mul] at slots
  unfold Profile.sofOffset Profile.roundLength
  omega

/-- The deviation is what is left of the stamp over some round's expected SOF mark, and no more than half a round. -/
theorem Profile.deviation_spec (p : Profile) (station : StationNo) (sof : CommonTime) (positive : 0 < p.roundLength) :
    (∃ r : Int, (sof.count p.roundLength : Int) = r * p.roundLength + p.sofOffset station + p.deviation station sof) ∧
      2 * |p.deviation station sof| ≤ p.roundLength := by
  have positive : (0 : Int) < p.roundLength := by exact_mod_cast positive
  have below := Int.emod_lt_of_pos ((sof.offset : Int) - p.sofOffset station) positive
  have nonneg := Int.emod_nonneg ((sof.offset : Int) - p.sofOffset station) positive.ne'
  have whole := Int.emod_add_mul_ediv ((sof.offset : Int) - p.sofOffset station) p.roundLength
  have count : (sof.count p.roundLength : Int) = sof.round.toNat * p.roundLength + sof.offset := by
    simp [CommonTime.count]
  unfold Profile.deviation
  dsimp only
  generalize ((sof.offset : Int) - p.sofOffset station) / p.roundLength = q at whole
  generalize ((sof.offset : Int) - p.sofOffset station) % p.roundLength = a at *
  split
  · refine ⟨⟨sof.round.toNat + q, ?_⟩, by rw [abs_of_nonneg nonneg]; omega⟩
    rw [count]
    linarith
  · refine ⟨⟨sof.round.toNat + q + 1, ?_⟩, by rw [abs_of_neg (by omega)]; omega⟩
    rw [count]
    linarith

/-- Of the instants a round length apart the one at most half a round away is the nearest. -/
theorem abs_le_of_half {d rl : Int} (half : 2 * |d| ≤ rl) (k : Int) : |d| ≤ |k * rl + d| := by
  have positive : 0 ≤ rl := le_trans (by positivity) half
  rcases lt_trichotomy k 0 with h | rfl | h
  · have : k * rl ≤ -rl := by nlinarith
    rw [abs_of_nonpos (a := k * rl + d) (by linarith [le_abs_self d, abs_nonneg d])]
    linarith [le_abs_self d]
  · simp
  · have : rl ≤ k * rl := by nlinarith
    rw [abs_of_nonneg (a := k * rl + d) (by linarith [neg_abs_le d, abs_nonneg d])]
    linarith [neg_abs_le d]

theorem Profile.slotRound_eq {p : Profile} (h : p.inRange = true) {station : StationNo} (inside : station.val < p.slotCount)
    {sof : CommonTime} {r : Int}
    (count : (sof.count p.roundLength : Int) = r * p.roundLength + p.sofOffset station + p.deviation station sof) :
    p.slotRound station sof = BitVec.ofInt 40 r := by
  have positive : (0 : Int) < p.roundLength := by exact_mod_cast (by have := p.inRange_roundLength h; omega : 0 < p.roundLength)
  have inRound : (p.sofOffset station : Int) < p.roundLength := by exact_mod_cast Profile.sofOffset_lt h inside
  unfold Profile.slotRound
  congr 1
  rw [show (sof.count p.roundLength : Int) - p.deviation station sof = p.sofOffset station + r * p.roundLength by
    rw [count]; ring, Int.add_mul_ediv_right _ _ positive.ne', Int.ediv_eq_zero_of_lt (by positivity) inRound, zero_add]

/-- The condition under which the Time Unit measures a frame. -/
theorem State.measures_iff (s : State) (f : Frame) : s.measures f = true ↔
    f.kind = .beacon ∧ f.departing = false ∧ (f.quality = .sound ∨ f.quality = .sole) ∧ f.station ≠ s.own ∧
      ((s.ctrl.station = .active ∧ s.members.peers[f.station].state = .member) ∨
       (s.ctrl.station = .integrate ∧ ∃ heard, s.ctrl.integration = some (f.round, heard))) := by
  have heard : s.ctrl.integration.map (·.1) = some f.round ↔ ∃ heard, s.ctrl.integration = some (f.round, heard) := by
    cases s.ctrl.integration <;> simp [Prod.ext_iff]
  unfold State.measures
  split
  next h => simp [h, Quality.vouched, and_assoc]
  next h => simp only [h, Quality.vouched, Bool.and_eq_true, beq_iff_eq, heard]; simp [and_assoc]
  all_goals simp_all

/-- Settles O28: the deviation is at most half a round, so no other instant is nearer. -/
theorem deviationFromNearestMark : Obligations.DeviationFromNearestMark := by
  refine ⟨fun p station sof h inside => ?_, fun f sof s => ?_⟩
  · obtain ⟨⟨r, count⟩, half⟩ := p.deviation_spec station sof (by have := p.inRange_roundLength h; omega)
    have offset : (p.sofOffset station : Int) = station.val * p.slotLength + 20 := by simp [Profile.sofOffset]
    refine ⟨r, by rw [count, offset]; ring, Profile.slotRound_eq h inside count, fun k => ?_⟩
    have apart : (sof.count p.roundLength : Int) - (k * p.roundLength + station.val * p.slotLength + 20) =
        (r - k) * p.roundLength + p.deviation station sof := by rw [count, offset]; ring
    rw [apart]
    exact abs_le_of_half half (r - k)
  · intro measured
    have measures : s.measures f = true ↔ measured := s.measures_iff f
    have entered : (s.time.deviations.any fun d => d.1 == f.station) = true ↔ ∃ d ∈ s.time.deviations, d.1 = f.station := by
      simp
    constructor
    · intro m fresh
      have fresh : ¬ ∃ d ∈ s.time.deviations, d.1 = f.station := fun ⟨d, hd, e⟩ => fresh d hd e
      rw [← entered] at fresh
      simp only [timeTakeFrame, measures.mpr m, fresh, Bool.not_false, Bool.and_true, ↓reduceIte]
      rfl
    · intro skip
      have skip : ¬ (s.measures f && !(s.time.deviations.any fun d => d.1 == f.station)) = true := by
        rw [Bool.and_eq_true, Bool.not_eq_true', Bool.eq_false_iff, Ne, entered, measures]
        exact fun ⟨m, fresh⟩ => skip.elim (fun n => n m) fresh
      rw [timeTakeFrame, if_neg skip]

/-! ## Frames of which the Station Controller alone makes something -/

/-- The blocks but the Station Controller leave the state at this frame. -/
def Frame.ForController (f : Frame) (own : StationNo) : Prop := f.station = own ∨ f.kind = .startup

theorem frameAct_forController {f : Frame} {t : State} (only : f.ForController t.own) (i : Bool) (sof : CommonTime)
    (localAt : Nat) {a : FrameAct} (other : a ≠ .controller) : frameAct i f sof localAt t a = t := by
  have heard : ¬ (f.kind = .beacon ∧ f.station ≠ t.own) := by
    rcases only with h | h <;> simp [h]
  cases a
  case controller => contradiction
  case timeUnit =>
    have notMeasured : t.measures f = false := by
      rcases only with h | h <;> simp [State.measures, h]
    simp [frameAct, timeTakeFrame, notMeasured]
  case membership =>
    rcases only with h | h <;> simp [frameAct, membershipTakeFrame, h]
  case outbound =>
    rcases only with h | h <;> simp [frameAct, outboundTakeFrame, h]
  case receipt => exact (receiptEntryOpened.1 i f t).2 fun ⟨k, n, _⟩ => heard ⟨k, n⟩

theorem foldl_frameAct_others {f : Frame} {t : State} (only : f.ForController t.own) (i : Bool) (sof : CommonTime)
    (localAt : Nat) {acts : List FrameAct} (others : FrameAct.controller ∉ acts) :
    acts.foldl (frameAct i f sof localAt) t = t := by
  induction acts with
  | nil => rfl
  | cons a acts ih =>
    rw [List.mem_cons, not_or] at others
    rw [List.foldl_cons, frameAct_forController only i sof localAt (Ne.symm others.1), ih others.2]

/-- Whatever the order, such a frame does what the Station Controller makes of it. -/
theorem handOverFrame_forController {f : Frame} {s : State} (only : f.ForController s.own) (sof : CommonTime)
    (localAt : Nat) (order : List FrameAct) :
    handOverFrame f sof localAt order s = controllerTakeFrame f localAt s := by
  unfold handOverFrame
  have perm := frameActs_perm order
  have nodup : (completeOrder allFrameActs order).Nodup := nodup_firstOccurrences _
  obtain ⟨before, after, split⟩ := List.append_of_mem (perm.mem_iff.mpr (mem_allFrameActs .controller))
  rw [split] at nodup ⊢
  have apart := List.nodup_middle.mp nodup
  rw [List.nodup_cons, List.mem_append, not_or] at apart
  have only' : f.ForController (controllerTakeFrame f localAt s).own := by
    simpa [State.own] using only
  rw [List.foldl_append, foldl_frameAct_others only _ _ _ apart.1.1, List.foldl_cons]
  exact foldl_frameAct_others only' _ _ _ apart.1.2

/-! ## What the Station Controller makes of a frame -/

theorem controllerTakeFrame_own {f : Frame} {s : State} (own : f.station = s.own) (running : s.ctrl.station.Running)
    (localAt : Nat) : controllerTakeFrame f localAt s = enterFault s := by
  rcases running with h | h | h | h <;> simp [controllerTakeFrame, h, own]

theorem controllerTakeFrame_stopped {s : State}
    (h : s.ctrl.station = .config ∨ s.ctrl.station = .departed ∨ s.ctrl.station = .faulted) (f : Frame) (localAt : Nat) :
    controllerTakeFrame f localAt s = s := by
  rcases h with h | h | h <;> simp [controllerTakeFrame, h]

/-- Settles O29: the frame is the Station Controller's alone, and takes a running station to FAULT. -/
theorem ownNumberLeadsToFault : Obligations.OwnNumberLeadsToFault := by
  intro bytes order s f sof localAt h own
  have taken : exec (.frameTaken bytes order) s = .next (controllerTakeFrame f localAt s.afterValid) := by
    simp only [exec, execFrameTaken, takeBurst_valid h]
    rw [handOverFrame_forController (s := s.afterValid) (.inl own)]
  refine ⟨fun running => ⟨_, taken, ?_⟩, fun stopped => ?_⟩
  · rw [controllerTakeFrame_own (s := s.afterValid) own running]
    exact enterFault_spec s.afterValid
  · rw [taken, controllerTakeFrame_stopped (s := s.afterValid) stopped]

/-- The condition under which a station in LISTEN or COLDSTART integrates on a frame. -/
theorem State.integratesOn_iff (s : State) (f : Frame) : s.integratesOn f = true ↔
    (s.ctrl.station = .listen ∧ f.station ≠ s.own ∧ f.station.val < s.settings.profile.slotCount ∧
      f.leavePending = false ∧ (f.kind = .startup ∨ (f.departing = false ∧ (f.quality = .sound ∨ f.quality = .sole)))) ∨
    (s.ctrl.station = .coldstart ∧ f.station < s.own) := by
  cases h : s.ctrl.station <;> simp [State.integratesOn, h, Quality.vouched, and_assoc]

theorem controllerTakeFrame_integrates {f : Frame} {s : State} (h : s.integratesOn f = true) (localAt : Nat) :
    controllerTakeFrame f localAt s = enterIntegrate f localAt s := by
  rcases (s.integratesOn_iff f).mp h with ⟨listen, other, -⟩ | ⟨coldstart, lower⟩
  · simp [controllerTakeFrame, listen, other, h]
  · simp [controllerTakeFrame, coldstart, lower.ne, h]

/-- Settles O30: `integratesOn` says when the controller integrates; a STARTUP is the controller's alone. -/
theorem frameIntegratesStation : Obligations.FrameIntegratesStation := by
  refine ⟨fun p t inRange _ => slotStartAfter_first inRange, fun f localAt s other => ⟨fun round heard integrate integration => ?_,
    fun coldstart higher => ?_, fun outside => ?_⟩, fun f localAt s h => ?_, fun bytes order s f sof localAt h startup base => ?_⟩
  · have kinds : f.kind = .beacon ∨ f.kind = .startup := by cases f.kind <;> simp
    rcases kinds with kind | kind <;> simp [controllerTakeFrame, integrate, other, integration, kind, State.setCtrl]
  · have notBase : s.integratesOn f = false := by simp [State.integratesOn, coldstart, higher.le]
    simp [controllerTakeFrame, coldstart, other, notBase]
  · rcases outside with active | outside
    · simp [controllerTakeFrame, active, other]
    · exact controllerTakeFrame_stopped outside f localAt
  · rw [controllerTakeFrame_integrates ((s.integratesOn_iff f).mpr h)]
    exact enterIntegrate_spec f localAt s
  · have integrates : s.afterValid.integratesOn f = true := (s.integratesOn_iff f).mpr
      (base.imp (fun ⟨listen, other, inside, staying⟩ => ⟨listen, other, inside, staying, .inl startup⟩) id)
    refine ⟨enterIntegrate f localAt s.afterValid, ?_, enterIntegrate_spec f localAt s.afterValid⟩
    simp only [exec, execFrameTaken, takeBurst_valid h]
    rw [handOverFrame_forController (.inr startup), controllerTakeFrame_integrates integrates]

/-! ## Line activity -/

/-- Settles O31: a garbled or foreign burst is counted and reported to the Station Controller. -/
theorem lineActivityRestartsTimer : Obligations.LineActivityRestartsTimer := by
  intro bytes order s garbled foreign afterGarbled afterForeign restarted
  have takenGarbled (h : garbled) : exec (.frameTaken bytes order) s = .next (controllerTakeGarbled afterGarbled) := by
    simp only [exec, execFrameTaken]
    rcases h with h | ⟨sof, localAt, h, unread⟩
    · rw [takeBurst_eq (by simp [h]), classifyFrame_preamble h]
      rfl
    · rw [takeBurst_eq (by simp [h]), classifyFrame_unread h unread]
      rfl
  have takenForeign (h : foreign) : exec (.frameTaken bytes order) s = .next (controllerTakeForeign afterForeign) := by
    obtain ⟨sof, localAt, f, h, read, other⟩ := h
    simp only [exec, execFrameTaken]
    rw [takeBurst_eq (by simp [h]), classifyFrame_foreign h read other]
    rfl
  refine ⟨fun h listen => ?_, fun h listen => ?_, fun h coldstart => ⟨enterListen afterGarbled, ?_, enterListen_spec _⟩,
    fun h notListen notColdstart => ?_, fun h notListen => ?_, fun f localAt listen other noBase => ?_⟩
  · have listen : afterGarbled.ctrl.station = .listen := listen
    rw [takenGarbled h, controllerTakeGarbled, listen]
    rfl
  · have listen : afterForeign.ctrl.station = .listen := listen
    rw [takenForeign h, controllerTakeForeign, listen]
    rfl
  · have coldstart : afterGarbled.ctrl.station = .coldstart := coldstart
    rw [takenGarbled h, controllerTakeGarbled, coldstart]
  · rw [takenGarbled h]
    exact congrArg Host.Outcome.next (controllerTakeGarbled_ind (P := fun t => t = afterGarbled) afterGarbled
      (fun e => absurd e notListen) (fun e => absurd e notColdstart) rfl)
  · rw [takenForeign h]
    exact congrArg Host.Outcome.next (controllerTakeForeign_ind (P := fun t => t = afterForeign) afterForeign
      (fun e => absurd e notListen) rfl)
  · have notBase : ¬ s.integratesOn f = true := by
      rw [State.integratesOn_iff]
      rintro (⟨-, -, inside, staying, base⟩ | ⟨coldstart, -⟩)
      · rcases noBase with beyond | leaving | ⟨beacon, departing | suspect | untimed⟩
        · omega
        · simp [leaving] at staying
        all_goals simp_all
      · simp [listen] at coldstart
    have taken : controllerTakeFrame f localAt s = lineActivity s := by
      simp [controllerTakeFrame, listen, other, notBase]
    rw [taken]
    rfl

end Sys2Proof.Machine
end

section
/-! SUPPORT. What the Membership Table makes of a BEACON. -/

namespace Sys2Proof.Machine

/-- The view check disagrees on one of the compared station numbers. -/
theorem Membership.disagreesOn_iff (m : Membership) (own : StationNo) (f : Frame) (x : StationNo) (other : f.station ≠ own) :
    m.disagreesOn own f x = true ↔ x ≠ f.station ∧
      ((x = own ∧ m.grace = 0 ∧ f.view.getLsbD x.val = false) ∨
       (x ≠ own ∧ m.peers[x].state = .absent ∧ f.view.getLsbD x.val = true) ∨
       (x ≠ own ∧ m.peers[x].state = .member ∧ f.view.getLsbD x.val = false)) := by
  unfold Membership.disagreesOn inSet
  by_cases own_ : x = own
  · subst own_
    simp [Ne.symm other]
  · by_cases sender : x = f.station
    · subst sender
      simp [own_]
    · cases h : m.peers[x].state <;> simp_all

/-- The sender is not compared, so marking it heard does not change what the view check finds. -/
theorem Membership.disagreesOn_setPeer (m : Membership) (own : StationNo) (f : Frame) (e : PeerEntry)
    (other : f.station ≠ own) (x : StationNo) :
    (m.setPeer f.station e).disagreesOn own f x = m.disagreesOn own f x := by
  by_cases sender : x = f.station
  · subst sender
    simp [Membership.disagreesOn, other]
  · have kept : (m.setPeer f.station e).peers[x] = m.peers[x] := getElem_set_other (Ne.symm sender) m.peers e
    rw [Bool.eq_iff_iff, disagreesOn_iff _ _ _ _ other, disagreesOn_iff _ _ _ _ other, kept]
    rfl

/-- What a BEACON of another number, not departing, makes of the table in ACTIVE. -/
theorem membershipTakeFrame_hears {f : Frame} {s : State} (beacon : f.kind = .beacon) (other : f.station ≠ s.own)
    (active : s.ctrl.station = .active) (staying : f.departing = false) :
    membershipTakeFrame f s = s.setMembers (s.members.hear s.own f) := by
  simp [membershipTakeFrame, beacon, other, active, staying]

theorem membershipTakeFrame_drops {f : Frame} {s : State} (beacon : f.kind = .beacon) (other : f.station ≠ s.own)
    (active : s.ctrl.station = .active) (departing : f.departing = true) : membershipTakeFrame f s =
      raiseIf s.members.peers[f.station].inView .memberLoss (s.setMembers (s.members.dropDeparting f)) := by
  simp [membershipTakeFrame, beacon, other, active, departing]

/-- Settles O32: by the station state and the frame, the four cases of `membershipTakeFrame`. -/
theorem beaconHeard : Obligations.BeaconHeard := by
  intro f s e noted disagrees beacon
  refine ⟨fun ⟨kind, other⟩ active staying => ⟨_, membershipTakeFrame_hears kind other active staying, ?_⟩,
    fun ⟨kind, other⟩ active departing => ⟨_, membershipTakeFrame_drops kind other active departing, ?_, ?_⟩,
    fun ⟨kind, other⟩ integrate => ?_, fun nothing => ?_⟩
  · have found : (allStations.any ((s.members.setPeer f.station { noted with heard := true }).disagreesOn s.own f)) = true ↔
        disagrees := by
      rw [any_allStations]
      exact exists_congr fun x => by
        rw [Membership.disagreesOn_setPeer _ _ _ _ other, Membership.disagreesOn_iff _ _ _ _ other]
    have heard : s.members.hear s.own f =
        (s.members.setPeer f.station { noted with heard := true }).checkView s.own f := rfl
    by_cases d : disagrees
    · rw [heard, Membership.checkView, if_pos (found.mpr d)]
      exact ⟨rfl, fun _ => ⟨rfl, rfl⟩, fun n => absurd d n⟩
    · rw [heard, Membership.checkView, if_neg (mt found.mp d)]
      exact ⟨rfl, fun p => absurd p d, fun _ => ⟨rfl, rfl⟩⟩
  · cases e.inView <;> rfl
  · refine ⟨fun c => ?_, ?_⟩
    · rw [raiseIf_raised, PeerEntry.inView_iff]
      exact or_congr Iff.rfl and_comm
    · exact raiseIf_port _ _ _
  · simp only [membershipTakeFrame, kind, other, integrate, beq_iff_eq, reduceCtorEq, Bool.or_eq_true, or_self, ↓reduceIte]
    rfl
  · by_cases skip : f.kind = .startup ∨ f.station = s.own
    · simp [membershipTakeFrame, skip]
    · have kind : f.kind = .beacon := by
        cases h : f.kind <;> simp_all
      have elsewhere : s.ctrl.station ≠ .active ∧ s.ctrl.station ≠ .integrate :=
        nothing.resolve_left fun n => n ⟨kind, fun own => skip (.inr own)⟩
      refine membershipTakeFrame_ind (P := fun t => t = s) f s (fun a _ => absurd a elsewhere.1) (fun a _ => absurd a elsewhere.1)
        (fun i _ _ _ => absurd i elsewhere.2) rfl

end Sys2Proof.Machine
end

section
/-! SUPPORT. The announcements of a BEACON and the last steps of processing one (R114 to R118). -/

namespace Sys2Proof.Machine

/-! ## The issued-through and watermark step -/

section

variable {e : ReceiptEntry} {f : Frame}

theorem ReceiptEntry.close_eq (e : ReceiptEntry) (f : Frame) :
    e.close f = { e with issuedThrough := f.issuedThrough, watermark := (e.close f).watermark } := rfl

theorem ReceiptEntry.acceptsWatermark_iff (issued : Option Sequence) (w : CommonTime) :
    e.acceptsWatermark issued w = true ↔ e.receivedThrough = issued ∧ ∀ old, e.watermark = some old → old.earlier w = true := by
  unfold ReceiptEntry.acceptsWatermark
  cases e.watermark <;> simp

/-- The watermark of a frame that has sent all it issued is taken if it is later than the one held. -/
theorem ReceiptEntry.close_watermark_taken (complete : e.receivedThrough = f.issuedThrough) {w : CommonTime}
    (offered : f.watermark = some w) (later : ∀ old, e.watermark = some old → old.earlier w = true) :
    (e.close f).watermark = some w := by
  simp only [ReceiptEntry.close, offered, (e.acceptsWatermark_iff _ _).mpr ⟨complete, later⟩, ↓reduceIte]

/-- A watermark that is not accepted leaves the one held. -/
theorem ReceiptEntry.close_watermark_kept
    (refused : ∀ w, f.watermark = some w → ¬ e.acceptsWatermark f.issuedThrough w = true) :
    (e.close f).watermark = e.watermark := by
  unfold ReceiptEntry.close
  dsimp only
  split
  next w offered => exact if_neg (refused w offered)
  next => rfl

end

/-! ## A BEACON without announcements -/

theorem setReceived_eq (s : State) (o : StationNo) (q : Option Sequence) : s.setReceived o q =
    s.setReceipt o { s.receipts.entries[o] with receivedThrough := q } := rfl

/-- On an entry that is not stale the empty-beacon step ends at the frame's issued-through, counting a gap where that
corrects a received-through. -/
theorem emptyBeaconStep_sound {f : Frame} {s : State}
    (sound : s.receipts.entries[f.station].isStale f.issuedThrough = false) : emptyBeaconStep f s =
      (if s.receipts.entries[f.station].receivedThrough = none ∨
          s.receipts.entries[f.station].receivedThrough = f.issuedThrough then s
        else countGaps 1 s).setReceived f.station f.issuedThrough := by
  have stands {q : Option Sequence} (h : s.receipts.entries[f.station].receivedThrough = q) :
      s.setReceived f.station q = s := by
    rw [← h]
    exact setReceipt_self s f.station
  unfold emptyBeaconStep
  cases hi : f.issuedThrough with
  | none =>
    cases hr : s.receipts.entries[f.station].receivedThrough with
    | none =>
      rw [if_pos (.inl rfl)]
      exact (stands hr).symm
    | some r =>
      simp only [hi, ReceiptEntry.isStale, hr, reduceCtorEq] at sound
  | some i =>
    cases hr : s.receipts.entries[f.station].receivedThrough with
    | none => rw [if_pos (.inl rfl)]
    | some r =>
      simp only [hi, ReceiptEntry.isStale, hr, followsOrEqualsSeq, Bool.not_eq_false', Bool.or_eq_true, decide_eq_true_eq] at sound
      by_cases same : i = r
      · subst same
        rw [if_pos (.inr rfl), stands hr]
        exact if_neg (by simp [followsSeq])
      · rw [if_neg (by simpa using Ne.symm same)]
        exact if_pos (sound.resolve_left same)

theorem processBeacon_empty {f : Frame} (empty : f.announcements = []) (s : State) :
    processBeacon f s = (emptyBeaconStep f (receiptOpening f s)).setReceipt f.station
      ((emptyBeaconStep f (receiptOpening f s)).receipts.entries[f.station].close f) := by
  simp [processBeacon, empty]

theorem processBeacon_announcing {f : Frame} (announcing : f.announcements ≠ []) (s : State) :
    processBeacon f s = (takeAnnouncements f f.announcements (receiptOpening f s)).setReceipt f.station
      ((takeAnnouncements f f.announcements (receiptOpening f s)).receipts.entries[f.station].close f) := by
  simp [processBeacon, announcing]

/-- The entry a BEACON without announcements leaves, from the entry its opening left. -/
theorem processBeacon_empty_opened {f : Frame} (empty : f.announcements = []) {s t : State} {k : ReceiptEntry}
    (opened : receiptOpening f s = t.setReceipt f.station k) (sound : k.isStale f.issuedThrough = false) :
    processBeacon f s = (if k.receivedThrough = none ∨ k.receivedThrough = f.issuedThrough then t
      else countGaps 1 t).setReceipt f.station ({ k with receivedThrough := f.issuedThrough }.close f) := by
  have entry : (t.setReceipt f.station k).receipts.entries[f.station] = k := setReceipt_entry ..
  rw [processBeacon_empty empty, opened, emptyBeaconStep_sound (by rw [entry]; exact sound), entry]
  split <;> simp [State.setReceived, State.setReceipt, countGaps, State.setReceipts]

theorem settled_watermark {f : Frame} {k : ReceiptEntry} (complete : k.receivedThrough = f.issuedThrough) :
    (∀ w, f.watermark = some w → (∀ old, k.watermark = some old → old.earlier w = true) → (k.close f).watermark = some w) ∧
    ((∀ w, f.watermark = some w → ∃ old, k.watermark = some old ∧ old.earlier w = false) →
      (k.close f).watermark = k.watermark) := by
  refine ⟨fun w => ReceiptEntry.close_watermark_taken complete, fun older => ReceiptEntry.close_watermark_kept fun w offered accepts => ?_⟩
  obtain ⟨old, held, notEarlier⟩ := older w offered
  have := ((k.acceptsWatermark_iff _ _).mp accepts).2 old held
  simp [notEarlier] at this

theorem settled_entry {f : Frame} {k : ReceiptEntry} (known : k.knownSession = some f.session) :
    { k with receivedThrough := f.issuedThrough }.close f =
      { knownSession := some f.session, receivedThrough := f.issuedThrough, issuedThrough := f.issuedThrough
        watermark := ({ k with receivedThrough := f.issuedThrough }.close f).watermark } := by
  rw [ReceiptEntry.close_eq, ← known]

theorem processBeacon_settles {f : Frame} (empty : f.announcements = []) {s t : State} {k : ReceiptEntry} {gaps : Nat}
    (opened : receiptOpening f s = t.setReceipt f.station k) (sound : k.isStale f.issuedThrough = false)
    (known : k.knownSession = some f.session)
    (counted : (if k.receivedThrough = none ∨ k.receivedThrough = f.issuedThrough then t else countGaps 1 t) =
      s.setReceipts { s.receipts with gaps := gaps }) :
    ∃ watermark : Option CommonTime,
      (∀ w, f.watermark = some w → (∀ old, k.watermark = some old → old.earlier w = true) → watermark = some w) ∧
      ((∀ w, f.watermark = some w → ∃ old, k.watermark = some old ∧ old.earlier w = false) → watermark = k.watermark) ∧
      processBeacon f s = { s with receipts := { s.receipts with
        entries := s.receipts.entries.set f.station
          { knownSession := some f.session, receivedThrough := f.issuedThrough
            issuedThrough := f.issuedThrough, watermark := watermark }
        gaps := gaps } } := by
  have settled := processBeacon_empty_opened empty opened sound
  obtain ⟨taken, kept⟩ := settled_watermark (f := f) (k := { k with receivedThrough := f.issuedThrough }) rfl
  rw [settled_entry known, counted] at settled
  exact ⟨_, taken, kept, settled⟩

/-- Settles O35: `close` ends every processing; an empty BEACON settles the entry that its opening left. -/
theorem emptyBeaconSettlesEntry : Obligations.EmptyBeaconSettlesEntry := by
  refine ⟨fun f s announcing => ?_, fun f s empty => ?_⟩
  · intro u e
    refine ⟨(e.close f).watermark, fun complete w => ReceiptEntry.close_watermark_taken complete, fun refused => ?_,
      processBeacon_announcing announcing s⟩
    refine ReceiptEntry.close_watermark_kept fun w offered accepts => ?_
    obtain ⟨complete, later⟩ := (e.acceptsWatermark_iff _ _).mp accepts
    rcases refused with incomplete | unoffered | ⟨w', old, offered', held, notEarlier⟩
    · exact incomplete complete
    · simp [unoffered] at offered
    · obtain rfl : w' = w := by simpa [offered] using offered'.symm
      simp [later old held] at notEarlier
  · intro e same received held
    obtain ⟨stepReceived, stepWatermark⟩ : (e.sessionStep f.session).receivedThrough = received ∧
        (e.sessionStep f.session).watermark = if same then e.watermark else none := by
      by_cases h : same
      · rw [ReceiptEntry.sessionStep_same h]
        simp [received, h]
      · rw [ReceiptEntry.sessionStep_changed h]
        simp [received, h, ReceiptEntry.cleared]
    have stale := (e.sessionStep f.session).isStale_iff (issued := f.issuedThrough)
    rw [stepReceived] at stale
    by_cases h : (e.sessionStep f.session).isStale f.issuedThrough = true
    · have behind : ¬ (received = none ∨ received = f.issuedThrough) := by
        obtain ⟨some_, far⟩ := stale.mp h
        rintro (none_ | equal)
        · exact some_ none_
        · obtain ⟨r, hr⟩ := Option.ne_none_iff_exists'.mp some_
          simpa using far r r hr (equal ▸ hr)
      have watermark : ((e.sessionStep f.session).cleared).watermark = held := (if_neg fun n => n.2 (stale.mp h)).symm
      rw [← watermark, if_neg behind]
      exact processBeacon_settles (t := countGaps 1 s) empty (receiptOpening_stale h) rfl
        ReceiptEntry.sessionStep_knownSession (if_pos (.inl rfl))
    · have watermark : (e.sessionStep f.session).watermark = held := by
        rw [stepWatermark]
        exact if_congr (by rw [← stale]; simp [h]) rfl rfl
      rw [← watermark]
      refine processBeacon_settles (t := s) empty (receiptOpening_sound h) (Bool.eq_false_of_not_eq_true h)
        ReceiptEntry.sessionStep_knownSession ?_
      rw [stepReceived]
      split <;> rfl

/-! ## A run of announcements -/

/-- What was received through of an origin. -/
def State.receivedThrough (s : State) (o : StationNo) : Option Sequence := s.receipts.entries[o].receivedThrough

/-- The announcements carry consecutive sequences from q on. -/
def RunFrom : Sequence → List WireRecord → Prop
  | _, [] => True
  | q, w :: ws => w.sequence = q ∧ RunFrom (q + 1) ws

/-- All accepted, one by one. -/
def acceptAll (f : Frame) (ws : List WireRecord) (s : State) : State := ws.foldl (fun s w => acceptAnnouncement f w s) s

theorem acceptAnnouncement_eq (f : Frame) (w : WireRecord) (s : State) : acceptAnnouncement f w s =
    { journalInsert (w.complete f) s with receipts := { s.receipts with
      entries := s.receipts.entries.set f.station
        { s.receipts.entries[f.station] with receivedThrough := some w.sequence } } } := by
  have kept : (journalInsert (w.complete f) s).receipts = s.receipts := by simp
  rw [acceptAnnouncement, setReceived_eq, State.setReceipt, kept]
  rfl

theorem acceptAnnouncement_receivedThrough (f : Frame) (w : WireRecord) (s : State) :
    (acceptAnnouncement f w s).receivedThrough f.station = some w.sequence := by
  rw [acceptAnnouncement, setReceived_eq, State.receivedThrough, setReceipt_entry]

theorem runFrom_of_getElem {first : WireRecord} {rest : List WireRecord} (consecutive : ∀ k (h : k < rest.length),
    rest[k].sequence = first.sequence + BitVec.ofNat 15 (k + 1)) : RunFrom first.sequence (first :: rest) := by
  refine ⟨rfl, ?_⟩
  generalize first.sequence = q at consecutive
  induction rest generalizing q with
  | nil => trivial
  | cons w rest ih =>
    refine ⟨consecutive 0 (Nat.succ_pos _), ih (q + 1) fun k h => ?_⟩
    have next := consecutive (k + 1) (by simpa using h)
    rw [List.getElem_cons_succ] at next
    rw [next, BitVec.add_assoc, Nat.add_comm (k + 1) 1, BitVec.ofNat_add]
    rfl

/-- How far a sequence lies behind the next one decides its class. -/
theorem classify_behind (r a : Sequence) : classify (some r) a =
    if (r + 1 - a).toNat = 0 then .accepted else if (r + 1 - a).toNat ≤ 16385 then .duplicate else .gap := by
  unfold classify followsSeq
  dsimp only
  have next : a = r + 1 ↔ (r + 1 - a).toNat = 0 := by bv_omega
  have gap (h : ¬ (r + 1 - a).toNat = 0) : (decide (1 ≤ (a - r).toNat) && decide ((a - r).toNat ≤ 16383)) = true ↔
      ¬ (r + 1 - a).toNat ≤ 16385 := by
    rw [Bool.and_eq_true, decide_eq_true_iff, decide_eq_true_iff]
    bv_omega
  by_cases h : (r + 1 - a).toNat = 0
  · rw [if_pos (next.mpr h), if_pos h]
  · rw [if_neg (mt next.mp h), if_neg h]
    by_cases g : (r + 1 - a).toNat ≤ 16385
    · rw [if_neg (fun p => (gap h).mp p g), if_pos g]
    · rw [if_pos ((gap h).mpr g), if_neg g]

section

variable {f : Frame} {s : State} {w : WireRecord} {ws : List WireRecord}

theorem takeAnnouncements_accepts (h : classify (s.receivedThrough f.station) w.sequence = .accepted) :
    takeAnnouncements f (w :: ws) s = takeAnnouncements f ws (acceptAnnouncement f w s) := by
  unfold State.receivedThrough at h
  rw [takeAnnouncements, h]

theorem takeAnnouncements_drops (h : classify (s.receivedThrough f.station) w.sequence = .duplicate) :
    takeAnnouncements f (w :: ws) s = takeAnnouncements f ws
      (s.setReceipts { s.receipts with duplicates := countUp s.receipts.duplicates 1 }) := by
  unfold State.receivedThrough at h
  rw [takeAnnouncements, h]

theorem takeAnnouncements_gap (h : classify (s.receivedThrough f.station) w.sequence = .gap) :
    takeAnnouncements f (w :: ws) s =
      if f.view.getLsbD s.own.val then (countGaps (ws.length + 1) s).setReceived f.station (some (w.sequence - 1))
      else takeAnnouncements f ws (acceptAnnouncement f w (countGaps 1 s)) := by
  unfold State.receivedThrough at h
  rw [takeAnnouncements, h]
  rfl

end

/-- A run at a baseline, or next, is accepted. -/
theorem takeAnnouncements_next {f : Frame} {q : Sequence} {ws : List WireRecord} (run : RunFrom q ws) {s : State}
    (next : s.receivedThrough f.station = none ∨ s.receivedThrough f.station = some (q - 1)) :
    takeAnnouncements f ws s = acceptAll f ws s := by
  induction ws generalizing q s with
  | nil => rfl
  | cons w ws ih =>
    obtain ⟨rfl, run⟩ := run
    have accepted : classify (s.receivedThrough f.station) w.sequence = .accepted := by
      rcases next with h | h <;> simp [h, classify]
    rw [takeAnnouncements_accepts accepted]
    exact ih run (.inr (by rw [acceptAnnouncement_receivedThrough]; simp))

/-- A run that begins behind the next sequence: what was received already is dropped and counted. -/
theorem takeAnnouncements_behind {f : Frame} {q r : Sequence} {ws : List WireRecord} (run : RunFrom q ws)
    (near : (r + 1 - q).toNat ≤ 16385) {s : State} (received : s.receivedThrough f.station = some r)
    (counted : s.receipts.duplicates ≤ 65535) :
    takeAnnouncements f ws s = acceptAll f (ws.drop (r + 1 - q).toNat) (s.setReceipts { s.receipts with
      duplicates := min (s.receipts.duplicates + min (r + 1 - q).toNat ws.length) 65535 }) := by
  induction ws generalizing q s with
  | nil =>
    rw [List.drop_nil, List.length_nil, Nat.min_zero, Nat.add_zero, Nat.min_eq_left counted]
    rfl
  | cons w ws ih =>
    by_cases next : (r + 1 - q).toNat = 0
    · rw [next, Nat.zero_min, Nat.add_zero, Nat.min_eq_left counted]
      exact takeAnnouncements_next run (.inr (by rw [received]; congr 1; bv_omega))
    · obtain ⟨rfl, run⟩ := run
      obtain ⟨b, hb⟩ := Nat.exists_eq_succ_of_ne_zero next
      have hb' : (r + 1 - (w.sequence + 1)).toNat = b := by bv_omega
      have duplicate : classify (s.receivedThrough f.station) w.sequence = .duplicate := by
        rw [received, classify_behind, if_neg next, if_pos near]
      have rest := ih run (by omega)
        (s := s.setReceipts { s.receipts with duplicates := countUp s.receipts.duplicates 1 }) received (Nat.min_le_right _ _)
      have total : min (countUp s.receipts.duplicates 1 + min b ws.length) 65535 =
          min (s.receipts.duplicates + min (b + 1) (ws.length + 1)) 65535 := by
        unfold countUp
        omega
      rw [takeAnnouncements_drops duplicate, rest, hb', State.setReceipts_receipts, total, hb]
      rfl

/-- Settles O36: by how far the run begins behind the next sequence. -/
theorem announcementRun : Obligations.AnnouncementRun := by
  refine ⟨fun f w s => ⟨_, rfl, acceptAnnouncement_eq f w s⟩, fun f first rest s range _ consecutive => ?_⟩
  have run := runFrom_of_getElem consecutive
  intro whole accept
  refine ⟨fun baseline => takeAnnouncements_next run (.inl baseline), fun r received => ⟨fun near => ?_, fun far unseen => ?_,
    fun far seen => ?_⟩⟩
  · exact takeAnnouncements_behind run near received (s.countersInRange_iff.mp range).receipts.1
  all_goals
    have gap : classify (s.receivedThrough f.station) first.sequence = .gap := by
      have received : s.receivedThrough f.station = some r := received
      rw [received, classify_behind, if_neg (by omega), if_neg (by omega)]
  · rw [takeAnnouncements_gap gap, if_neg (by rw [unseen]; exact Bool.false_ne_true)]
    exact takeAnnouncements_next run.2 (.inr (by rw [acceptAnnouncement_receivedThrough]; simp))
  · rw [takeAnnouncements_gap gap, if_pos seen]
    rfl

end Sys2Proof.Machine
end

section
/-! SUPPORT. The own frame: the instants it is sent at, the content it takes, its watermark, and its echo. -/

namespace Sys2Proof.Machine

/-! ## The instants of the own frame -/

/-- After the local time until it, common time is at the count that lay ahead. -/
theorem State.ahead_reached {s : State} {count reach d : Nat} (h : s.ahead count reach = some d)
    (positive : 0 < s.settings.profile.cycle) :
    (passTime (s.localUntil d) s).time.count s.settings.profile = count % s.settings.profile.cycle := by
  have free : s.localUntil d - s.time.holdCount = d := by
    unfold State.localUntil
    split <;> omega
  have passed := s.time.pass_count s.settings.profile (s.localUntil d) positive
  rw [free] at passed
  refine passed.trans ?_
  simp only [State.ahead, Option.ite_none_right_eq_some, Option.some.injEq] at h
  obtain ⟨-, rfl⟩ := h
  have nonneg : 0 ≤ ((count : Int) - s.time.count s.settings.profile) % s.settings.profile.cycle :=
    Int.emod_nonneg _ (by omega)
  zify
  rw [Int.toNat_of_nonneg nonneg, Int.add_emod_emod, add_sub_cancel]

/-- Settles O37: by whether the preamble start lies ahead, and what the transmitter holds. -/
theorem preambleAndFrameSent : Obligations.PreambleAndFrameSent := by
  intro s
  refine ⟨fun received order o ordered => ⟨s.untilPreamble.getD 0, if (s.aheadOfPreamble o.round).isSome then 4 else 3, _,
    rfl, fun idle => ?_, fun burst => ?_, fun d ahead positive => ?_, fun missed => ?_⟩, fun none_ received order => ?_,
    fun o n body => ?_, fun none_ => ?_⟩
  · simp only [exec, execPreambleStart, ordered, takeBurst]
    simp [passTime, idle, State.setLine]
  · simp only [exec, execPreambleStart, ordered, execFrameTaken]
    rfl
  · have until_ : s.untilPreamble.getD 0 = s.localUntil d := by simp [State.untilPreamble, ordered, ahead]
    rw [until_]
    exact ⟨by simp [ahead], State.ahead_reached ahead positive⟩
  · exact ⟨by simp [missed], by simp [State.untilPreamble, ordered, missed, State.localUntil]⟩
  · simp only [exec, execPreambleStart]
    split
    · exact absurd ‹_› (none_ _)
    all_goals rfl
  · simp only [exec, execFrameSent, body]
    rfl
  · simp only [exec, execFrameSent]
    split
    · exact absurd ‹_› (none_ _ _)
    all_goals rfl

/-! ## The content -/

theorem followsSeq_iff (a b : Sequence) : followsSeq a b = true ↔ a ≠ b ∧ (a - b).toNat ≤ 16383 := by
  simp only [followsSeq, Bool.and_eq_true, decide_eq_true_eq]
  bv_omega

theorem State.receiptVector_getElem (s : State) (k : StationNo) : s.receiptVector[k] =
    if k = s.own then none else s.receipts.entries[k].receivedThrough.map fun q =>
      { sessionByte := BitVec.ofNat 8 ((s.receipts.entries[k].knownSession.getD 0).toNat % 256), through := q } := by
  have low (x : Session) : x.setWidth 8 = BitVec.ofNat 8 (x.toNat % 256) := by
    apply BitVec.eq_of_toNat_eq
    simp
  simp [State.receiptVector, low]

/-- Issued-through as R98 raises it. -/
theorem OutboundQueue.raisedIssued_eq (q : OutboundQueue) : q.raisedIssued =
    match (q.records.take 4).getLast?, q.issuedThrough with
    | none, issued => issued
    | some r, none => some r.sequence
    | some r, some issued =>
      if r.sequence ≠ issued ∧ (r.sequence - issued).toNat ≤ 16383 then some r.sequence else some issued := by
  unfold OutboundQueue.raisedIssued OutboundQueue.selected
  cases (q.records.take 4).getLast? <;> cases q.issuedThrough <;> simp only [followsSeq_iff]

/-- Settles O38: the content by the kind of the order, and DEPARTED after it for a departing BEACON in ACTIVE. -/
theorem sofMarkTakesContent : Obligations.SofMarkTakesContent := by
  intro o n s sending
  have taken : exec .sofMarkSent s = .next (sendContent o (passTime n s)) := by
    simp only [exec, execSofMarkSent, sending]
  have outcome : (o.kind = .beacon → o.departing = true → s.ctrl.station = .active →
        Retired .departed ((passTime n s).contentSent o) (sendContent o (passTime n s))) ∧
      (o.kind = .startup ∨ o.departing = false ∨ s.ctrl.station ≠ .active →
        sendContent o (passTime n s) = (passTime n s).contentSent o) := by
    have station : (passTime n s).ctrl.station = s.ctrl.station := rfl
    rw [sendContent_eq, station]
    constructor
    · intro beacon departing active
      simp only [beacon, departing, active, beq_self_eq_true, Bool.and_self, ↓reduceIte]
      exact enterDeparted_spec _
    · intro stays
      refine if_neg fun h => ?_
      simp only [Bool.and_eq_true, beq_iff_eq] at h
      rcases stays with startup | staying | elsewhere
      · simp [startup] at h
      · simp [staying] at h
      · exact elsewhere h.2
  refine ⟨(passTime n s).frameFor o, passTime n s, (passTime n s).contentSent o, _, rfl, taken, ?_⟩
  cases kind : o.kind with
  | startup =>
    have content : (passTime n s).frameFor o = (passTime n s).startupFrame := by simp only [State.frameFor, kind]
    rw [kind] at outcome
    refine ⟨by rw [content]; rfl, by rw [content]; rfl, by rw [content]; rfl, by rw [content]; rfl, by rw [content]; rfl,
      by rw [content]; rfl, fun _ => ⟨by rw [content]; rfl, by rw [content]; rfl, fun k => ?_, by rw [content]; rfl,
        by rw [content]; rfl, fun k => ?_, by rw [content]; rfl, ?_⟩, fun e => (nomatch e), ?_, outcome⟩
    · rw [content, State.startupFrame, setOf_getLsbD, beq_iff_eq]
      rfl
    · rw [content]
      simp [State.startupFrame]
    · simp only [State.contentSent, kind]
      rfl
    · simp only [State.contentSent, content, kind]
      rfl
  | beacon =>
    have content : (passTime n s).frameFor o = (passTime n s).beaconFrame o.departing := by simp only [State.frameFor, kind]
    rw [kind] at outcome
    refine ⟨by rw [content]; rfl, by rw [content]; rfl, by rw [content]; rfl, by rw [content]; rfl, by rw [content]; rfl,
      by rw [content]; rfl, fun e => (nomatch e), fun _ => ⟨by rw [content]; rfl, by rw [content]; rfl, by rw [content]; rfl,
        by rw [content]; rfl, fun k => ?_, by rw [content]; rfl, ?_, ?_⟩, ?_, outcome⟩
    · rw [content]
      exact State.receiptVector_getElem _ k
    · rw [content]
      simp only [State.contentSent, kind]
      rfl
    · rw [content]
      exact s.queue.raisedIssued_eq
    · simp only [State.contentSent, content, kind]
      rfl

/-! ## The watermark -/

theorem earliest_not_after (a b : CommonTime) :
    a.earlier (a.earliest b) = false ∧ b.earlier (a.earliest b) = false := by
  unfold CommonTime.earliest
  split
  next h => exact ⟨CommonTime.earlier_asymm h, CommonTime.earlier_irrefl b⟩
  next h => exact ⟨CommonTime.earlier_irrefl a, by simpa using h⟩

/-- The earliest of a start and of the instants that a list gives lies after none of them, and is one of them. -/
theorem foldl_earliest {α : Type} (instant : α → CommonTime) (l : List α) (start : CommonTime) :
    start.earlier (l.foldl (fun acc x => acc.earliest (instant x)) start) = false ∧
      (∀ x ∈ l, (instant x).earlier (l.foldl (fun acc x => acc.earliest (instant x)) start) = false) ∧
      (l.foldl (fun acc x => acc.earliest (instant x)) start = start ∨
        ∃ x ∈ l, l.foldl (fun acc x => acc.earliest (instant x)) start = instant x) := by
  induction l generalizing start with
  | nil => exact ⟨CommonTime.earlier_irrefl start, by simp, .inl rfl⟩
  | cons y l ih =>
    obtain ⟨below, each, one⟩ := ih (start.earliest (instant y))
    obtain ⟨startAfter, itsAfter⟩ := earliest_not_after start (instant y)
    simp only [List.foldl_cons, List.mem_cons, forall_eq_or_imp, exists_eq_or_imp]
    refine ⟨CommonTime.not_earlier_trans below startAfter, ⟨CommonTime.not_earlier_trans below itsAfter, each⟩, ?_⟩
    rcases one with h | ⟨x, hx, h⟩
    · rw [h, CommonTime.earliest]
      split
      · exact .inr (.inl rfl)
      · exact .inl rfl
    · exact .inr (.inr ⟨x, hx, h⟩)

/-- The earliest timestamp of a list of records that has one. -/
theorem foldl_earliest_some (step : Option CommonTime → QueuedRecord → Option CommonTime)
    (first : ∀ r, step none r = some r.time) (later : ∀ t r, step (some t) r = some (t.earliest r.time))
    (r : QueuedRecord) (l : List QueuedRecord) :
    (r :: l).foldl step none = some (l.foldl (fun acc r => acc.earliest r.time) r.time) := by
  rw [List.foldl_cons, first]
  generalize r.time = t
  induction l generalizing t with
  | nil => rfl
  | cons r l ih => rw [List.foldl_cons, later, ih, List.foldl_cons]

/-- The records that stay unannounced after the selection of a BEACON. -/
def OutboundQueue.unannounced (q : OutboundQueue) : List QueuedRecord := (q.records.drop 4).filter fun r => !r.announced

theorem OutboundQueue.announce_unannounced (q : OutboundQueue) :
    q.announce.records.filter (fun r => !r.announced) = q.unannounced := by
  have marked : (q.selected.map fun r => { r with announced := true }).filter (fun r => !r.announced) = [] := by
    simp [List.filter_eq_nil_iff]
  simp only [OutboundQueue.announce, List.filter_append, marked, List.nil_append]
  rfl

theorem OutboundQueue.mem_unannounced (q : OutboundQueue) (r : QueuedRecord) :
    r ∈ q.unannounced ↔ r ∈ q.records.drop 4 ∧ r.announced = false := by
  simp [OutboundQueue.unannounced, List.mem_filter]

/-- The earliest of the records that stay unannounced is none of them, if there is none, or one of them after which none
lies. -/
theorem OutboundQueue.earliestUnannounced_spec (q : OutboundQueue) :
    (∀ r ∈ q.unannounced, ∃ t, q.announce.earliestUnannounced = some t ∧ r.time.earlier t = false) ∧
      ∀ t, q.announce.earliestUnannounced = some t → ∃ r ∈ q.unannounced, r.time = t := by
  unfold OutboundQueue.earliestUnannounced
  rw [q.announce_unannounced]
  cases q.unannounced with
  | nil => simp
  | cons r l =>
    rw [foldl_earliest_some _ (fun _ => rfl) (fun _ _ => rfl)]
    obtain ⟨first, each, one⟩ := foldl_earliest (fun r : QueuedRecord => r.time) l r.time
    simp only [List.mem_cons, Option.some.injEq, exists_eq_left', forall_eq_or_imp, exists_eq_or_imp, forall_eq']
    exact ⟨⟨first, each⟩, one.imp Eq.symm fun ⟨x, hx, e⟩ => ⟨x, hx, e.symm⟩⟩

/-- The instants 1 µs after which the watermark of a BEACON may not lie: candidates, a pending loss, and the earliest of
the records that stay unannounced. -/
def State.watermarkTerms (s : State) : List CommonTime :=
  (allInputs.filterMap s.candidateTime ++ (s.capture.pendingLoss.map (·.first.time)).toList) ++
    s.queue.announce.earliestUnannounced.toList

theorem State.beaconWatermark_eq (s : State) : s.beaconWatermark =
    s.watermarkTerms.foldl (fun acc t => acc.earliest (s.justBefore t)) s.commonTime := by
  unfold State.beaconWatermark State.watermarkTerms
  rw [List.foldl_append]
  cases s.queue.announce.earliestUnannounced <;> rfl

theorem mem_allInputs (i : InputNo) : i ∈ allInputs := by revert i; decide

theorem State.candidateTime_iff (s : State) (i : InputNo) (t : CommonTime) : s.candidateTime i = some t ↔
    ∃ (level : Bool) (count : Nat) (first : Stamp), s.capture.trackers[i].state = .candidate level count first ∧
      s.settings.inputs[i].edge ≠ .off ∧ first.time = t := by
  unfold State.candidateTime
  split
  next level count first h =>
    rw [h]
    simp
  all_goals
    next h => exact ⟨fun e => (nomatch e), fun ⟨_, _, _, same, _⟩ => by rw [h] at same; cases same⟩

/-- 1 µs before an instant later than (0, 0) lies before it. -/
theorem State.justBefore_spec {s : State} {t : CommonTime} (later : t ≠ { round := 0, offset := 0 }) :
    t.minus s.roundLength 1 = some (s.justBefore t) ∧ (s.justBefore t).earlier t = true := by
  obtain ⟨round, offset⟩ := t
  unfold State.justBefore CommonTime.minus
  dsimp only
  by_cases inside : 1 ≤ offset
  · rw [if_pos inside]
    exact ⟨rfl, (CommonTime.earlier_iff _ _).mpr (.inr ⟨rfl, by simp; omega⟩)⟩
  · have nonzero : round ≠ 0 := fun e => later (by rw [e, show offset = 0 by omega])
    rw [if_neg inside, if_neg nonzero]
    exact ⟨rfl, (CommonTime.earlier_iff _ _).mpr (.inl (by simp only [Option.getD_some]; bv_omega))⟩

theorem State.justBefore_offset_lt {s : State} (positive : 0 < s.roundLength) {t : CommonTime} (h : t.offset < s.roundLength) :
    (s.justBefore t).offset < s.roundLength := by
  unfold State.justBefore CommonTime.minus
  split
  · simp only [Option.getD_some]; omega
  · split
    · exact Nat.mod_lt _ positive
    · simp only [Option.getD_some]; omega

theorem earlier_of_not_after_of_earlier {a b c : CommonTime} (h : b.earlier a = false) (k : b.earlier c = true) :
    a.earlier c = true := by
  rcases CommonTime.earlier_total a b with e | rfl | e
  · exact CommonTime.earlier_trans e k
  · exact k
  · simp [h] at e

theorem earlier_of_earlier_of_not_after {a b c : CommonTime} (h : a.earlier b = true) (k : c.earlier b = false) :
    a.earlier c = true := by
  rcases CommonTime.earlier_total b c with e | rfl | e
  · exact CommonTime.earlier_trans h e
  · exact h
  · simp [k] at e

/-- Settles O39: the watermark is the earliest of common time and of 1 µs before each instant it has to cover. -/
theorem watermarkCoversUnannounced : Obligations.WatermarkCoversUnannounced := by
  intro s covered
  have term_covered : ∀ t ∈ s.watermarkTerms, covered t := by
    intro t ht
    simp only [State.watermarkTerms, List.mem_append, List.mem_filterMap, Option.mem_toList, Option.map_eq_some_iff] at ht
    rcases ht with (⟨i, -, candidate⟩ | loss) | earliest
    · exact .inl ⟨i, (s.candidateTime_iff i t).mp candidate⟩
    · exact .inr (.inl loss)
    · obtain ⟨r, hr, e⟩ := s.queue.earliestUnannounced_spec.2 t earliest
      obtain ⟨queued, unannounced⟩ := (s.queue.mem_unannounced r).mp hr
      exact .inr (.inr ⟨r, queued, unannounced, e⟩)
  have covered_term : ∀ t, covered t → ∃ u ∈ s.watermarkTerms, t.earlier u = false := by
    intro t ht
    simp only [State.watermarkTerms, List.mem_append, List.mem_filterMap, Option.mem_toList, Option.map_eq_some_iff]
    rcases ht with ⟨i, candidate⟩ | loss | ⟨r, queued, unannounced, rfl⟩
    · exact ⟨t, .inl (.inl ⟨i, mem_allInputs i, (s.candidateTime_iff i t).mpr candidate⟩), CommonTime.earlier_irrefl t⟩
    · exact ⟨t, .inl (.inr loss), CommonTime.earlier_irrefl t⟩
    · obtain ⟨u, hu, e⟩ := s.queue.earliestUnannounced_spec.1 r ((s.queue.mem_unannounced r).mpr ⟨queued, unannounced⟩)
      exact ⟨u, .inr hu, e⟩
  obtain ⟨now, each, one⟩ := foldl_earliest s.justBefore s.watermarkTerms s.commonTime
  rw [← s.beaconWatermark_eq] at now each one
  refine ⟨fun positive inRound => ?_, fun later => ⟨fun t ht => ?_, now, ?_⟩⟩
  · rcases one with h | ⟨t, ht, h⟩ <;> rw [h]
    · exact s.commonTime_offset_lt positive
    · exact State.justBefore_offset_lt positive (inRound t (term_covered t ht))
  · obtain ⟨u, hu, notAfter⟩ := covered_term t ht
    have before := (State.justBefore_spec (s := s) (later u (term_covered u hu))).2
    exact earlier_of_earlier_of_not_after (earlier_of_not_after_of_earlier (each u hu) before) notAfter
  · exact one.imp id fun ⟨t, ht, h⟩ => ⟨t, term_covered t ht, h ▸ (State.justBefore_spec (later t (term_covered t ht))).1⟩

/-! ## The echo -/

theorem controllerTakeEcho_beacon_failed {s : State} (active : s.ctrl.station = .active) :
    controllerTakeEcho .beacon false s = if 3 ≤ s.ctrl.echoRun + 1 then reintegrate s
      else s.setCtrl { s.ctrl with echoRun := s.ctrl.echoRun + 1 } := by
  unfold controllerTakeEcho
  split
  case h_3 => rfl
  all_goals simp_all

/-- Settles O40: the report of the echo by the station state, the kind and the result. -/
theorem echoReport : Obligations.EchoReport := by
  intro heard sent idle kind s echo good passed failed
  have compared : echoGood sent heard idle = true ↔ good := by simp [echoGood, good]
  have takenGood (h : good) : exec (.echoResult heard idle) s = .next (controllerTakeEcho kind true passed) := by
    simp only [exec, execEchoResult, echo, compared.mpr h]
    rfl
  have takenFailed (h : ¬ good) : exec (.echoResult heard idle) s = .next (controllerTakeEcho kind false failed) := by
    simp only [exec, execEchoResult, echo, Bool.eq_false_of_not_eq_true (mt compared.mp h)]
    rfl
  refine ⟨fun h => (takenGood h).trans ?_, fun h coldstart startup => ⟨enterListen failed, (takenFailed h).trans ?_,
      enterListen_spec failed⟩, fun h active beacon few => (takenFailed h).trans ?_,
    fun h active beacon third => ⟨reintegrate failed, (takenFailed h).trans ?_, enterListen_spec _⟩,
    fun h notStartup notBeacon => (takenFailed h).trans ?_⟩
  · have station : passed.ctrl.station = s.ctrl.station := rfl
    simp only [controllerTakeEcho, station]
    cases hs : s.ctrl.station <;> cases kind <;> rfl
  · have station : failed.ctrl.station = .coldstart := coldstart
    simp only [controllerTakeEcho, station, startup]
  · have station : failed.ctrl.station = .active := active
    rw [beacon, controllerTakeEcho_beacon_failed station]
    exact congrArg Host.Outcome.next (if_neg (by show ¬ 3 ≤ s.ctrl.echoRun + 1; omega))
  · have station : failed.ctrl.station = .active := active
    rw [beacon, controllerTakeEcho_beacon_failed station]
    exact congrArg Host.Outcome.next (if_pos (by show 3 ≤ s.ctrl.echoRun + 1; omega))
  · have station : failed.ctrl.station = s.ctrl.station := rfl
    simp only [controllerTakeEcho, station]
    cases hs : s.ctrl.station <;> cases kind <;> simp_all

end Sys2Proof.Machine
end

section
/-! SUPPORT. What a slot boundary makes of the Station Controller and the Journal: the release candidate and step, the
order for the own slot, the leave drain, and the entries. -/

namespace Sys2Proof.Machine

/-! ## The release candidate -/

/-- A fold that takes the earliest of the watermarks of a list of peers, and ends with none where one has none. -/
theorem foldl_watermarks {watermark : StationNo → Option CommonTime} (step : Option CommonTime → StationNo → Option CommonTime)
    (lost : ∀ p, step none p = none) (missing : ∀ t p, watermark p = none → step (some t) p = none)
    (taken : ∀ t p w, watermark p = some w → step (some t) p = some (t.earliest w)) (l : List StationNo) (start : CommonTime) :
    ((∃ p ∈ l, watermark p = none) → l.foldl step (some start) = none) ∧
      ((∀ p ∈ l, watermark p ≠ none) → ∃ earliest, l.foldl step (some start) = some earliest ∧
        (earliest = start ∨ ∃ p ∈ l, watermark p = some earliest) ∧ start.earlier earliest = false ∧
        ∀ p ∈ l, ∀ w, watermark p = some w → w.earlier earliest = false) := by
  have gone (l : List StationNo) : l.foldl step none = none := by
    induction l with
    | nil => rfl
    | cons p l ih => rw [List.foldl_cons, lost, ih]
  induction l generalizing start with
  | nil => exact ⟨by simp, fun _ => ⟨start, rfl, .inl rfl, CommonTime.earlier_irrefl start, by simp⟩⟩
  | cons p l ih =>
    rw [List.foldl_cons]
    cases h : watermark p with
    | none =>
      rw [missing start p h, gone]
      exact ⟨fun _ => rfl, fun all => absurd h (all p List.mem_cons_self)⟩
    | some w =>
      rw [taken start p w h]
      obtain ⟨broken, whole⟩ := ih (start.earliest w)
      refine ⟨fun ⟨q, hq, e⟩ => ?_, fun all => ?_⟩
      · rcases List.mem_cons.mp hq with rfl | hq
        · simp [h] at e
        · exact broken ⟨q, hq, e⟩
      · obtain ⟨earliest, result, one, below, each⟩ := whole fun q hq => all q (List.mem_cons_of_mem _ hq)
        obtain ⟨startAfter, itsAfter⟩ := earliest_not_after start w
        refine ⟨earliest, result, ?_, CommonTime.not_earlier_trans below startAfter, ?_⟩
        · rcases one with rfl | ⟨q, hq, e⟩
          · unfold CommonTime.earliest
            split
            · exact .inr ⟨p, List.mem_cons_self, h⟩
            · exact .inl rfl
          · exact .inr ⟨q, List.mem_cons_of_mem _ hq, e⟩
        · intro q hq x hx
          rcases List.mem_cons.mp hq with rfl | hq
          · obtain rfl : w = x := by simpa [h] using hx
            exact CommonTime.not_earlier_trans below itsAfter
          · exact each q hq x hx

theorem State.mem_viewPeers (s : State) (p : StationNo) : p ∈ s.viewPeers ↔
    p ≠ s.own ∧ (s.members.peers[p].state = .member ∨ s.members.peers[p].state = .missing) := by
  rw [State.viewPeers, List.mem_filter, Bool.and_eq_true, bne_iff_ne, s.inView_iff]
  exact ⟨fun ⟨_, other, inView⟩ => ⟨other, by tauto⟩, fun ⟨other, held⟩ => ⟨mem_allStations p, other, by tauto⟩⟩

theorem CommonTime.minus_inside {rl gap : Nat} {t : CommonTime} (h : gap ≤ t.offset) :
    t.minus rl gap = some { t with offset := t.offset - gap } := if_pos h

theorem CommonTime.minus_borrows {rl gap : Nat} {t : CommonTime} (h : t.offset < gap) (round : t.round ≠ 0) :
    t.minus rl gap = some { round := t.round - 1, offset := t.offset + rl - gap } :=
  (if_neg (by omega)).trans (if_neg round)

theorem CommonTime.minus_none {rl gap : Nat} {t : CommonTime} (h : t.offset < gap) (round : t.round = 0) :
    t.minus rl gap = none := (if_neg (by omega)).trans (if_pos round)

/-- One peer of the candidate's fold: the earlier of what is found so far and the peer's accepted watermark. -/
def State.watermarkStep (s : State) (found : Option CommonTime) (p : StationNo) : Option CommonTime :=
  match found, s.receipts.entries[p].watermark with
  | some t, some w => some (t.earliest w)
  | _, _ => none

theorem State.releaseCandidate_eq (s : State) : s.releaseCandidate =
    (s.viewPeers.foldl s.watermarkStep (some s.ownWatermark)).bind fun t =>
      t.minus s.roundLength s.settings.profile.guard := rfl

/-- Settles O42: the candidate's fold over the peers in the view, and the subtraction of G from its result. -/
theorem releaseCandidateIsBounded : Obligations.ReleaseCandidateIsBounded := by
  intro s inView
  have inView_iff (p : StationNo) : inView p ↔ p ∈ s.viewPeers := (s.mem_viewPeers p).symm
  obtain ⟨broken, whole⟩ := foldl_watermarks (watermark := fun p => s.receipts.entries[p].watermark)
    s.watermarkStep (fun _ => rfl) (fun t p h => by simp only [State.watermarkStep, h])
    (fun t p w h => by simp only [State.watermarkStep, h]) s.viewPeers s.ownWatermark
  refine ⟨fun ⟨p, hp, e⟩ => ?_, fun all => ?_⟩
  · rw [s.releaseCandidate_eq, broken ⟨p, (inView_iff p).mp hp, e⟩]
    rfl
  · obtain ⟨earliest, result, one, below, each⟩ := whole fun p hp => all p ((inView_iff p).mpr hp)
    have candidate : s.releaseCandidate = earliest.minus s.roundLength s.settings.profile.guard := by
      rw [s.releaseCandidate_eq, result]
      rfl
    rw [candidate]
    refine ⟨earliest, one.imp id fun ⟨p, hp, e⟩ => ⟨p, (inView_iff p).mpr hp, e⟩, below,
      fun p w hp => each p ((inView_iff p).mp hp) w, CommonTime.minus_inside, CommonTime.minus_borrows, CommonTime.minus_none⟩

/-! ## The Journal at a boundary -/

theorem Journal.releaseThrough_eq (j : Journal) (h : CommonTime) : j.releaseThrough h = { j with
    horizon := some h
    released := j.released ++ j.unreleased.filter fun r => !h.earlier r.time
    unreleased := j.unreleased.filter fun r => h.earlier r.time } := by
  simp [Journal.releaseThrough, CommonTime.notAfter]

theorem Journal.releaseStep_taken (j : Journal) (c : CommonTime) : StepTaken (some c) j (j.releaseStep c) where
  kept e := nomatch e
  moved d e := by
    obtain rfl : c = d := by simpa using e
    unfold Journal.releaseStep
    cases hj : j.horizon with
    | none => exact ⟨c, fun _ => rfl, fun _ e => (nomatch e), j.releaseThrough_eq c⟩
    | some h =>
      refine ⟨_, fun later => ?_, fun old e notLater => ?_, j.releaseThrough_eq _⟩
      · obtain ⟨old, e, later⟩ := later.resolve_left (by simp)
        obtain rfl : h = old := by simpa using e
        exact if_pos later
      · obtain rfl : h = old := by simpa using e
        exact if_neg (by simp [notLater])

theorem journalBoundary_outside {s : State} (h : s.ctrl.station ≠ .active) : journalBoundary s = s := if_neg h

/-- In ACTIVE the Journal takes a release step with the candidate. -/
theorem journalBoundary_active {s : State} (h : s.ctrl.station = .active) :
    StepTaken s.releaseCandidate s.journal (journalBoundary s).journal := by
  unfold journalBoundary
  rw [if_pos h]
  split
  next c e =>
    rw [e]
    exact s.journal.releaseStep_taken c
  next e =>
    rw [e]
    exact ⟨fun _ => rfl, fun _ e => (nomatch e)⟩

theorem journalBoundary_writes (s : State) : journalBoundary s = s.setJournal (journalBoundary s).journal :=
  journalBoundary_ind (P := fun t => t = s.setJournal t.journal) s (fun _ => rfl) rfl

/-! ## The order for the own slot -/

theorem placeOrder_free {s : State} (free : s.line.transmitter = .idle ∨ ∃ o, s.line.transmitter = .ordered o)
    (o : TransmitOrder) : placeOrder o s = { s with line := { s.line with transmitter := .ordered o } } := by
  rcases free with h | ⟨_, h⟩ <;> simp [placeOrder, h, State.setLine]

theorem Transmitter.free_of_not_sending {x : Transmitter} (preamble : ∀ o n, x ≠ .sendingPreamble o n)
    (body : ∀ o n, x ≠ .sendingBody o n) : x = .idle ∨ ∃ o, x = .ordered o := by
  cases x
  case sendingPreamble o n => exact absurd rfl (preamble o n)
  case sendingBody o n => exact absurd rfl (body o n)
  all_goals simp

theorem controllerEntry_none {b : SlotStart} {s : State}
    (contention : s.ctrl.station = .coldstart → b.slot = s.own.val → ∀ r0, s.ctrl.contention = some r0 → r0 + 1 ≠ b.round)
    (integration : s.ctrl.station = .integrate → b.slot = 0 → ∀ round heard,
      s.ctrl.integration = some (round, heard) → round + 1 ≠ b.round) : controllerEntry b s = (s, false) := by
  have noContention : ¬ s.contentionEndsAt b = true := by
    simp only [State.contentionEndsAt, Bool.and_eq_true, beq_iff_eq, Option.map_eq_some_iff]
    rintro ⟨⟨coldstart, slot⟩, r0, h, e⟩
    exact contention coldstart slot r0 h e
  have noIntegration : s.integrationEndsAt b = none := by
    unfold State.integrationEndsAt
    refine iteInduction (motive := fun x : Option Bool => x = none) (fun h => ?_) fun _ => rfl
    simp only [Bool.and_eq_true, decide_eq_true_eq] at h
    split
    next round heard e => exact if_neg (integration h.1 h.2 round heard e)
    · rfl
  rw [controllerEntry, if_neg noContention, noIntegration]

/-- A boundary at which no entry is due: the drain, and in ACTIVE the order for the own slot. -/
theorem controllerBoundary_no_entry {b : SlotStart} {s : State} (none_ : controllerEntry b s = (s, false)) :
    controllerBoundary b s =
      if (if b.slot = 0 then drainRoundEnd s else s).ctrl.station = .active ∧ b.slot = s.own.val then
        placeOrder { kind := .beacon, departing := (if b.slot = 0 then drainRoundEnd s else s).ctrl.departingOrder
                     round := b.round } (if b.slot = 0 then drainRoundEnd s else s)
      else if b.slot = 0 then drainRoundEnd s else s := by
  have settled : s.settledAt b = if b.slot = 0 then drainRoundEnd s else s := by rw [State.settledAt, none_]
  rw [controllerBoundary_eq, settled, none_, Bool.false_or]
  simp only [Bool.and_eq_true, beq_iff_eq]

/-- Inside a round a station in ACTIVE orders the BEACON of its own slot. -/
theorem controllerBoundary_inside {b : SlotStart} (later : b.slot ≠ 0) {s : State} (active : s.ctrl.station = .active) :
    controllerBoundary b s = if b.slot = s.own.val then
      placeOrder { kind := .beacon, departing := s.ctrl.departingOrder, round := b.round } s else s := by
  rw [controllerBoundary_no_entry (controllerEntry_none (by simp [active]) (by simp [active]))]
  simp [later, active]

/-- Inside a round nothing happens at the controller where no entry is due and the station is not in ACTIVE. -/
theorem controllerBoundary_quiet {b : SlotStart} (later : b.slot ≠ 0) {s : State} (elsewhere : s.ctrl.station ≠ .active)
    (contention : s.ctrl.station = .coldstart → b.slot = s.own.val → ∀ r0, s.ctrl.contention = some r0 → r0 + 1 ≠ b.round) :
    controllerBoundary b s = s := by
  rw [controllerBoundary_no_entry (controllerEntry_none contention fun _ first => absurd first later)]
  simp [later, elsewhere]

/-! ## A boundary inside a round -/

/-- The acts that do something inside a round. -/
def everyBoundary : BoundaryAct → Bool
  | .controller | .journal => true
  | .timeUnit | .membership | .outbound | .correctionReport | .viewReport => false

/-- A boundary under way with no report made. -/
def BoundaryRun.silent (s : State) : BoundaryRun := { state := s, correction := none, viewFailure := false }

theorem boundaryAct_silent {b : SlotStart} (later : b.slot ≠ 0) (s : State) {a : BoundaryAct} (idle : everyBoundary a = false) :
    boundaryAct b (.silent s) a = .silent s := by
  cases a <;> simp [everyBoundary] at idle <;> simp [boundaryAct, later, BoundaryRun.silent]

/-- What an act does to the state inside a round. -/
def insideAct (b : SlotStart) (s : State) : BoundaryAct → State
  | .controller => controllerBoundary b s
  | .journal => journalBoundary s
  | _ => s

theorem foldl_silent {b : SlotStart} (later : b.slot ≠ 0) (acts : List BoundaryAct) (s : State) :
    acts.foldl (boundaryAct b) (.silent s) = .silent ((acts.filter everyBoundary).foldl (insideAct b) s) := by
  induction acts generalizing s with
  | nil => rfl
  | cons a acts ih =>
    rw [List.foldl_cons]
    cases h : everyBoundary a with
    | false => rw [boundaryAct_silent later s h, ih, List.filter_cons_of_neg (by simp [h])]
    | true =>
      have acts_ : boundaryAct b (.silent s) a = .silent (insideAct b s a) := by
        cases a <;> simp [everyBoundary] at h <;> rfl
      rw [acts_, ih, List.filter_cons_of_pos h, List.foldl_cons]

/-- Inside a round the boundary is the controller's act and the Journal's, one of them first. -/
theorem takeBoundary_inside {b : SlotStart} (later : b.slot ≠ 0) (order : List BoundaryAct) (s : State) :
    let now := s.setCtrl { s.ctrl with slotTimer := some (SlotStart.next s.settings.profile b) }
    takeBoundary b order s = journalBoundary (controllerBoundary b now) ∨
      takeBoundary b order s = controllerBoundary b (journalBoundary now) := by
  intro now
  have taken : takeBoundary b order s =
      ((boundaryActs order).filter everyBoundary).foldl (insideAct b) now := by
    exact congrArg BoundaryRun.state (foldl_silent later (boundaryActs order) now)
  have reports : (boundaryActs order).filter everyBoundary =
      (completeOrder allBoundaryActs order).filter everyBoundary := by
    rw [boundaryActs, List.filter_append]
    exact List.append_nil _
  have perm : ((completeOrder allBoundaryActs order).filter everyBoundary).Perm [.controller, .journal] :=
    (boundaryActs_perm order).filter _
  rw [taken, reports]
  obtain ⟨x, y, h⟩ := List.length_eq_two.mp perm.length_eq
  rw [h] at perm ⊢
  have nodup : x ≠ y := by simpa using perm.nodup_iff.mpr (by decide)
  have hx : x = .controller ∨ x = .journal := by simpa using perm.mem_iff.mp (List.mem_cons_self (a := x))
  have hy : y = .controller ∨ y = .journal := by
    simpa using perm.mem_iff.mp (List.mem_cons_of_mem x (List.mem_singleton_self y))
  rcases hx with rfl | rfl <;> rcases hy with rfl | rfl
  · contradiction
  · exact .inl rfl
  · exact .inr rfl
  · contradiction

/-- In ACTIVE the order for the own slot and the release step do not meet: whichever comes first, both are taken. -/
theorem takeBoundary_inside_active {b : SlotStart} (later : b.slot ≠ 0) (order : List BoundaryAct) {s : State}
    (active : s.ctrl.station = .active) :
    let now := s.setCtrl { s.ctrl with slotTimer := some (SlotStart.next s.settings.profile b) }
    ∃ journal, StepTaken now.releaseCandidate s.journal journal ∧ takeBoundary b order s =
      { now with line := (controllerBoundary b now).line, journal := journal } := by
  intro now
  have ordered (u : State) (h : u.ctrl.station = .active) : controllerBoundary b u = u.setLine (controllerBoundary b u).line ∧
      ∀ j, (controllerBoundary b (u.setJournal j)).line = (controllerBoundary b u).line := by
    rw [controllerBoundary_inside later h]
    refine ⟨?_, fun j => ?_⟩
    · split <;> rfl
    · rw [controllerBoundary_inside later (s := u.setJournal j) h]
      by_cases own : b.slot = u.own.val
      · rw [if_pos own, if_pos (show b.slot = (u.setJournal j).own.val from own)]
        rfl
      · rw [if_neg own, if_neg (show ¬ b.slot = (u.setJournal j).own.val from own)]
        rfl
  obtain ⟨line, keeps⟩ := ordered now active
  rcases takeBoundary_inside later order s with h | h
  · refine ⟨(journalBoundary (controllerBoundary b now)).journal, ?_, ?_⟩
    · have step := journalBoundary_active (s := controllerBoundary b now) (by rw [line]; exact active)
      rw [line] at step ⊢
      exact step
    · rw [h, journalBoundary_writes]
      rw [line]
      rfl
  · refine ⟨(journalBoundary now).journal, journalBoundary_active (s := now) active, ?_⟩
    have writes := journalBoundary_writes now
    rw [h, writes, (ordered (now.setJournal (journalBoundary now).journal) active).1, keeps]
    rfl

theorem takeBoundary_inside_quiet {b : SlotStart} (later : b.slot ≠ 0) (order : List BoundaryAct) {s : State}
    (elsewhere : s.ctrl.station ≠ .active)
    (contention : s.ctrl.station = .coldstart → b.slot = s.own.val → ∀ r0, s.ctrl.contention = some r0 → r0 + 1 ≠ b.round) :
    takeBoundary b order s = s.setCtrl { s.ctrl with slotTimer := some (SlotStart.next s.settings.profile b) } := by
  have quiet := controllerBoundary_quiet later (s := s.setCtrl { s.ctrl with
    slotTimer := some (SlotStart.next s.settings.profile b) }) elsewhere contention
  have still := journalBoundary_outside (s := s.setCtrl { s.ctrl with
    slotTimer := some (SlotStart.next s.settings.profile b) }) elsewhere
  rcases takeBoundary_inside later order s with h | h
  · rw [h, quiet, still]
  · rw [h, still, quiet]

/-- Settles O41: the controller's act and the Journal's do not meet inside a round, and the others leave the state. -/
theorem boundaryInsideRound : Obligations.BoundaryInsideRound := by
  refine ⟨fun b s => ⟨fun _ _ => rfl, journalBoundary_writes s, journalBoundary_outside, journalBoundary_active⟩,
    fun order b s timer later => ?_⟩
  have taken : exec (.slotBoundary order) s = .next (takeBoundary b order (passTime (s.untilBoundary.getD 0) s)) := by
    simp only [exec, execSlotBoundary, timer]
  refine ⟨_, _, s.untilBoundary.getD 0, rfl, taken, fun d ahead positive => ?_, fun active => ?_, fun outside => ?_,
    fun coldstart elsewhere => ?_⟩
  · have until_ : s.untilBoundary.getD 0 = s.localUntil d := by simp [State.untilBoundary, timer, ahead]
    rw [until_]
    exact State.ahead_reached ahead positive
  · obtain ⟨journal, step, result⟩ := takeBoundary_inside_active later order
      (s := passTime (s.untilBoundary.getD 0) s) active
    rw [controllerBoundary_inside later (by exact active)] at result
    rw [result]
    refine ⟨?_, fun other => ?_, fun own preamble body => ?_, step⟩
    · split <;> rfl
    · rw [if_neg (by exact other)]
      rfl
    · rw [if_pos (by exact own)]
      exact congrArg (fun t : State => t.line.transmitter) (placeOrder_free (Transmitter.free_of_not_sending preamble body) _)
  · refine takeBoundary_inside_quiet later order (s := passTime (s.untilBoundary.getD 0) s) ?_ ?_
    · rcases outside with h | h <;> exact fun e => absurd (h.symm.trans e) (by decide)
    · rcases outside with h | h <;> exact fun e => absurd (h.symm.trans e) (by decide)
  · refine takeBoundary_inside_quiet later order (s := passTime (s.untilBoundary.getD 0) s)
      (fun e => absurd (coldstart.symm.trans e) (by decide)) fun _ own => ?_
    exact elsewhere.resolve_left fun other => other own

end Sys2Proof.Machine
end

section
/-! SUPPORT. The Station Controller at a boundary: the leave drain, the entries, and the reports of a round end. -/

namespace Sys2Proof.Machine

/-! ## The leave drain -/

theorem drainRoundEnd_staying {s : State} (staying : s.ctrl.leavePending = false) : drainRoundEnd s = s :=
  if_neg (by simp [staying])

/-- The controller of a station in ACTIVE after a round end of its drain. -/
def State.drainedCtrl (s : State) : Controller :=
  { s.ctrl with
    drainCount := min 8 (s.ctrl.drainCount + 1)
    departingOrder := if s.queue.records = [] ∨ 7 ≤ s.ctrl.drainCount then true else s.ctrl.departingOrder }

theorem drainRoundEnd_active {s : State} (pending : s.ctrl.leavePending = true) (active : s.ctrl.station = .active) :
    drainRoundEnd s = s.setCtrl s.drainedCtrl := by
  have full : (s.queue.records.isEmpty || min 8 (s.ctrl.drainCount + 1) == 8) = true ↔
      s.queue.records = [] ∨ 7 ≤ s.ctrl.drainCount := by
    rw [Bool.or_eq_true, List.isEmpty_iff, beq_iff_eq]
    exact or_congr Iff.rfl (by omega)
  unfold drainRoundEnd State.drainedCtrl
  rw [if_pos pending]
  dsimp only
  split
  case h_1 =>
    by_cases h : s.queue.records = [] ∨ 7 ≤ s.ctrl.drainCount
    · rw [if_pos (full.mpr h), if_pos h]
      rfl
    · rw [if_neg (mt full.mp h), if_neg h]
  all_goals simp_all

/-- In the states before ACTIVE the round end at which the count is 8 takes the station to DEPARTED. -/
theorem drainRoundEnd_before_active {s : State} (pending : s.ctrl.leavePending = true)
    (before : s.ctrl.station = .listen ∨ s.ctrl.station = .coldstart ∨ s.ctrl.station = .integrate) :
    drainRoundEnd s = if s.ctrl.drainCount < 7 then s.setCtrl { s.ctrl with drainCount := s.ctrl.drainCount + 1 }
      else enterDeparted (s.setCtrl { s.ctrl with drainCount := 8 }) := by
  have count : drainRoundEnd s = if min 8 (s.ctrl.drainCount + 1) == 8 then
        enterDeparted (s.setCtrl { s.ctrl with drainCount := min 8 (s.ctrl.drainCount + 1) })
      else s.setCtrl { s.ctrl with drainCount := min 8 (s.ctrl.drainCount + 1) } := by
    unfold drainRoundEnd
    rw [if_pos pending]
    rcases before with h | h | h <;> simp only [h]
  rw [count]
  by_cases h : s.ctrl.drainCount < 7
  · have few : min 8 (s.ctrl.drainCount + 1) = s.ctrl.drainCount + 1 := by omega
    rw [few, if_pos h, if_neg (by simp; omega)]
  · have eight : min 8 (s.ctrl.drainCount + 1) = 8 := by omega
    rw [eight, if_neg h, if_pos (beq_self_eq_true 8)]

/-- DEPARTED forgets the drain count. -/
theorem Retired.of_drainCount {st : StationState} {s t : State} {n : Nat}
    (h : Retired st (s.setCtrl { s.ctrl with drainCount := n }) t) : Retired st s t :=
  ⟨h.ctrl, h.line, h.time, ⟨h.table.entries, h.table.counts⟩, h.capture, h.queue, h.released, h.journal,
    ⟨h.causes.set, h.causes.port⟩, h.others⟩

theorem drainRoundEnd_departs {s : State} (pending : s.ctrl.leavePending = true)
    (before : s.ctrl.station = .listen ∨ s.ctrl.station = .coldstart ∨ s.ctrl.station = .integrate)
    (eighth : 7 ≤ s.ctrl.drainCount) : Retired .departed s (drainRoundEnd s) := by
  rw [drainRoundEnd_before_active pending before, if_neg (by omega)]
  exact (enterDeparted_spec _).of_drainCount

theorem drainRoundEnd_counts {s : State} (pending : s.ctrl.leavePending = true)
    (before : s.ctrl.station = .listen ∨ s.ctrl.station = .coldstart ∨ s.ctrl.station = .integrate)
    (few : s.ctrl.drainCount < 7) :
    drainRoundEnd s = s.setCtrl { s.ctrl with drainCount := s.ctrl.drainCount + 1 } := by
  rw [drainRoundEnd_before_active pending before, if_pos few]

/-! ## The entries -/

/-- An order not yet begun is withdrawn at a change of station state, so the transmitter is then IDLE. -/
theorem withdraw_free {x : Transmitter} (free : x = .idle ∨ ∃ o, x = .ordered o) : x.withdraw = .idle := by
  rcases free with rfl | ⟨_, rfl⟩ <;> rfl

/-- An entry to ACTIVE at a boundary: the drain if a round ends, and then the order. -/
theorem controllerBoundary_enters_active {b : SlotStart} {s u : State} (entry : controllerEntry b s = (u, true))
    (active : u.ctrl.station = .active) (idle : u.line.transmitter = .idle) : controllerBoundary b s =
      let v := if b.slot = 0 then drainRoundEnd u else u
      { v with line := { v.line with
        transmitter := .ordered { kind := .beacon, departing := v.ctrl.departingOrder, round := b.round } } } := by
  have settled : s.settledAt b = if b.slot = 0 then drainRoundEnd u else u := by rw [State.settledAt, entry]
  have drained : (if b.slot = 0 then drainRoundEnd u else u).ctrl.station = .active ∧
      (if b.slot = 0 then drainRoundEnd u else u).line = u.line := by
    split
    · cases pending : u.ctrl.leavePending
      · rw [drainRoundEnd_staying pending]
        exact ⟨active, rfl⟩
      · rw [drainRoundEnd_active pending active]
        exact ⟨active, rfl⟩
    · exact ⟨active, rfl⟩
  obtain ⟨station, line⟩ := drained
  rw [controllerBoundary_eq, settled, entry, station]
  exact placeOrder_free (.inl (by rw [line]; exact idle)) _

theorem controllerEntry_contention {b : SlotStart} {s : State} (coldstart : s.ctrl.station = .coldstart)
    (own : b.slot = s.own.val) (ends : ∃ r0, s.ctrl.contention = some r0 ∧ r0 + 1 = b.round) :
    controllerEntry b s = (enterActive false b s, true) := by
  obtain ⟨r0, contention, round⟩ := ends
  exact if_pos (by simpa [State.contentionEndsAt, coldstart, own, contention] using round)

theorem controllerEntry_integration {b : SlotStart} {s : State} (integrate : s.ctrl.station = .integrate)
    (first : b.slot = 0) {heard : Bool} (ends : ∃ round, s.ctrl.integration = some (round, heard) ∧ round + 1 = b.round) :
    controllerEntry b s = if heard then (enterActive true b s, true) else (enterListen s, false) := by
  obtain ⟨round, integration, next⟩ := ends
  have noContention : ¬ s.contentionEndsAt b = true := by simp [State.contentionEndsAt, integrate]
  have integrated : s.integrationEndsAt b = some heard := by
    simpa [State.integrationEndsAt, integrate, first, integration] using next
  rw [controllerEntry, if_neg noContention, integrated]
  cases heard <;> rfl

/-- The state after an entry to ACTIVE, with the drain of a round end. -/
theorem drainRoundEnd_entered {i : Bool} {b : SlotStart} {s u : State} (h : ActiveEntered i b s u)
    (pending : s.ctrl.leavePending = true) : drainRoundEnd u = { u with ctrl := { u.ctrl with
      drainCount := min 8 (s.ctrl.drainCount + 1)
      departingOrder := if s.queue.records = [] ∨ 7 ≤ s.ctrl.drainCount then true else s.ctrl.departingOrder } } := by
  rw [drainRoundEnd_active (by rw [h.ctrl]; exact pending) (by rw [h.ctrl])]
  have records : u.queue.records = [] ↔ s.queue.records = [] := by rw [h.records, List.map_eq_nil_iff]
  have count : u.ctrl.drainCount = s.ctrl.drainCount := by rw [h.ctrl]
  have order : u.ctrl.departingOrder = s.ctrl.departingOrder := by rw [h.ctrl]
  unfold State.drainedCtrl
  simp only [records, count, order]
  rfl

/-- Settles O43: the entry made at the boundary, then the drain of the round end, then the order. -/
theorem entryAtBoundary : Obligations.EntryAtBoundary := by
  intro b s free withOrder drained
  have toActive {i : Bool} (entry : controllerEntry b s = (enterActive i b s, true)) :
      (s.ctrl.leavePending = false ∨ b.slot ≠ 0 → controllerBoundary b s = withOrder (enterActive i b s)) ∧
      (s.ctrl.leavePending = true → b.slot = 0 → controllerBoundary b s = withOrder (drained (enterActive i b s))) := by
    have spec := enterActive_spec i b s
    have ordered := controllerBoundary_enters_active entry (by rw [spec.ctrl])
      (by rw [spec.line]; exact withdraw_free free)
    refine ⟨fun undrained => ?_, fun pending first => ?_⟩
    · rw [ordered]
      rcases undrained with staying | later
      · rw [drainRoundEnd_staying (by rw [spec.ctrl]; exact staying), ite_self]
      · rw [if_neg later]
    · rw [ordered, if_pos first, drainRoundEnd_entered spec pending]
  refine ⟨fun coldstart own ends => ⟨_, enterActive_spec false b s, toActive (controllerEntry_contention coldstart own ends)⟩,
    fun integrate first ends => ?_, fun integrate first ends => ?_⟩
  · obtain ⟨undrained, drains⟩ := toActive (controllerEntry_integration integrate first ends)
    exact ⟨_, enterActive_spec true b s, fun staying => undrained (.inl staying), fun pending => drains pending first⟩
  · have entry := controllerEntry_integration integrate first ends
    have spec := enterListen_spec s
    have listen : (enterListen s).ctrl.station = .listen := by rw [spec.ctrl]
    have pendingKept : (enterListen s).ctrl.leavePending = s.ctrl.leavePending := by rw [spec.ctrl]
    have countKept : (enterListen s).ctrl.drainCount = s.ctrl.drainCount := by rw [spec.ctrl]
    have settled : controllerBoundary b s = drainRoundEnd (enterListen s) := by
      have drained : (drainRoundEnd (enterListen s)).ctrl.station ≠ .active := drainRoundEnd_ind
        (P := fun t => t.ctrl.station ≠ .active) (enterListen s) (fun _ _ _ _ => by simp [listen])
        (fun _ _ _ active => by simp [listen] at active) (fun _ _ _ => by rw [(enterDeparted_spec _).ctrl]; simp)
        (by simp [listen])
      have at_ : s.settledAt b = drainRoundEnd (enterListen s) := by
        rw [State.settledAt, if_pos first, entry]
        rfl
      rw [controllerBoundary_eq, at_, if_neg (by simp [drained])]
    refine ⟨_, spec, fun staying => ?_, fun pending few => ?_, fun pending eighth => ?_⟩
    · rw [settled, drainRoundEnd_staying (pendingKept.trans staying)]
    · rw [settled, drainRoundEnd_counts (pendingKept.trans pending) (.inl listen) (by rw [countKept]; exact few), countKept]
      rfl
    · rw [settled]
      exact drainRoundEnd_departs (pendingKept.trans pending) (.inl listen) (by rw [countKept]; exact eighth)

/-! ## The reports of a round end -/

/-- Settles O44: the drain by the station state, and the two reports. -/
theorem roundEndAtController : Obligations.RoundEndAtController := by
  refine ⟨fun b s first integration contention => ?_, fun s => ?_⟩
  · intro drained
    have none_ : controllerEntry b s = (s, false) := controllerEntry_none
      (fun coldstart own => contention coldstart (by omega)) fun integrate _ => integration integrate
    have boundary := controllerBoundary_no_entry none_
    rw [if_pos first] at boundary
    have inActive (active : s.ctrl.station = .active) : drainRoundEnd s = drained := by
      by_cases pending : s.ctrl.leavePending = true
      · rw [drainRoundEnd_active pending active, show drained = _ from if_pos pending]
        rfl
      · rw [drainRoundEnd_staying (by simpa using pending), show drained = _ from if_neg pending]
    have same : drained.ctrl.station = s.ctrl.station ∧ drained.line = s.line := by
      by_cases pending : s.ctrl.leavePending = true
      · rw [show drained = _ from if_pos pending]
        exact ⟨rfl, rfl⟩
      · rw [show drained = _ from if_neg pending]
        exact ⟨rfl, rfl⟩
    refine ⟨fun active other => ?_, fun active own free => ?_, fun elsewhere staying => ?_, fun pending before =>
      ⟨fun few => ?_, fun eighth => ?_⟩⟩
    · rw [boundary, inActive active, if_neg (by omega)]
    · rw [boundary, inActive active, if_pos ⟨by rw [same.1]; exact active, by omega⟩,
        placeOrder_free (by rw [same.2]; exact free), same.2]
    · rw [boundary, drainRoundEnd_staying staying, if_neg (by simp [elsewhere])]
    · have notActive : s.ctrl.station ≠ .active := by rcases before with h | h | h <;> simp [h]
      rw [boundary, drainRoundEnd_counts pending before few, if_neg (by simp [notActive])]
      rfl
    · have departs := drainRoundEnd_departs pending before eighth
      rw [boundary, if_neg (by rw [departs.ctrl]; simp)]
      exact departs
  · intro cleared
    refine ⟨fun elsewhere r => ⟨if_neg elsewhere, if_neg elsewhere⟩, fun active => ⟨fun few => ?_, fun third => ?_,
      fun r other => ?_, ?_⟩, fun b r v first active notEntry => ?_⟩
    · rw [takeCorrectionReport, if_pos active]
      exact if_neg (by omega)
    · have relisten : takeCorrectionReport .clamped s = reintegrate s := (if_pos active).trans (if_pos (by omega))
      rw [relisten]
      exact enterListen_spec _
    · cases r
      · contradiction
      all_goals exact if_pos active
    · rw [takeViewReport, if_pos active]
      exact enterListen_spec _
    · simp [boundaryAct, first, State.evaluatesAt, active, notEntry, Membership.checkFails]

end Sys2Proof.Machine
end

section
/-! SUPPORT. The round-end correction: the midpoint of the kept deviations and what it tolerates, and what a round end
makes of the Time Unit. -/

namespace Sys2Proof.Machine

/-! ## The midpoint -/

theorem insertRising_eq (x : Int) (l : List Int) : insertRising x l = l.orderedInsert (· ≤ ·) x := by
  induction l with
  | nil => rfl
  | cons y l ih => rw [insertRising, List.orderedInsert_cons, ih]

/-- The rising order of the model is that of a sort. -/
theorem rising_eq (l : List Int) : rising l = l.insertionSort (· ≤ ·) := by
  induction l with
  | nil => rfl
  | cons x l ih => rw [rising, ih, insertRising_eq, List.insertionSort_cons]

theorem rising_perm (l : List Int) : (rising l).Perm l := by
  rw [rising_eq]
  exact List.perm_insertionSort _ l

theorem rising_pairwise (l : List Int) : (rising l).Pairwise (· ≤ ·) := by
  rw [rising_eq]
  exact List.pairwise_insertionSort _ l

theorem rising_length (l : List Int) : (rising l).length = l.length := (rising_perm l).length_eq

/-- A list in order that holds the same numbers is the rising order. -/
theorem rising_unique {ordered l : List Int} (perm : ordered.Perm l) (sorted : ordered.Pairwise (· ≤ ·)) :
    ordered = rising l :=
  (perm.trans (rising_perm l).symm).eq_of_pairwise' sorted (rising_pairwise l)

/-- Something is left between the ends that are trimmed. -/
theorem trimmed_lt {n : Nat} (positive : 0 < n) : 2 * trimmedAtEachEnd n < n := by
  unfold trimmedAtEachEnd
  split <;> [omega; split <;> omega]

/-- The midpoint in terms of the rising order: the sum of what stands next to the trimmed ends, halved. -/
theorem midpoint_eq {l : List Int} (nonempty : l ≠ []) : ∃ least greatest,
    (rising l)[trimmedAtEachEnd l.length]? = some least ∧
    (rising l)[l.length - 1 - trimmedAtEachEnd l.length]? = some greatest ∧
    midpoint l = some (Int.tdiv (greatest + least) 2) := by
  have kept := trimmed_lt (List.length_pos_iff.mpr nonempty)
  have length := rising_length l
  have head : (keptDeviations l).head? = (rising l)[trimmedAtEachEnd l.length]? := by
    rw [keptDeviations, List.head?_take, if_neg (by omega), List.head?_drop]
  have last : (keptDeviations l).getLast? = (rising l)[l.length - 1 - trimmedAtEachEnd l.length]? := by
    rw [keptDeviations, List.getLast?_eq_getElem?, List.length_take, List.length_drop, length,
      List.getElem?_take_of_lt (by omega), List.getElem?_drop]
    congr 1
    omega
  have least := List.getElem?_eq_getElem (l := rising l) (i := trimmedAtEachEnd l.length) (by omega)
  have greatest := List.getElem?_eq_getElem (l := rising l) (i := l.length - 1 - trimmedAtEachEnd l.length) (by omega)
  refine ⟨_, _, least, greatest, ?_⟩
  simp only [midpoint, head, last, least, greatest]

theorem midpoint_none_iff (l : List Int) : midpoint l = none ↔ l = [] := by
  constructor
  · intro h
    by_contra nonempty
    obtain ⟨_, _, -, -, some_⟩ := midpoint_eq nonempty
    simp [h] at some_
  · rintro rfl
    rfl

/-- Where the numbers outside a condition are no more than those before a position of a sorted list, the number at that
position meets it, if all before a number that does not meet it do not. -/
theorem getElem_of_few {l : List Int} {outside : Int → Bool} {k : Nat} (few : (l.filter outside).length ≤ k)
    (inside : k < l.length) (closed : outside l[k] = true → ∀ i (h : i < k), outside l[i] = true) : outside l[k] = false := by
  by_contra out
  have out : outside l[k] = true := by simpa using out
  have all : (l.take (k + 1)).filter outside = l.take (k + 1) := by
    rw [List.filter_eq_self]
    intro x hx
    obtain ⟨i, hi, rfl⟩ := List.mem_take_iff_getElem.mp hx
    rcases Nat.lt_or_ge i k with h | h
    · exact closed out i h
    · obtain rfl : i = k := by omega
      exact out
  have sub : ((l.take (k + 1)).filter outside).length ≤ (l.filter outside).length :=
    ((List.take_sublist (k + 1) l).filter outside).length_le
  rw [all, List.length_take] at sub
  omega

/-- The number with k others before it in a sorted list is not below a bound that at most k numbers are below. -/
theorem le_getElem_of_few {l : List Int} (sorted : l.Pairwise (· ≤ ·)) {lo : Int} {k : Nat}
    (few : (l.filter fun d => decide (d < lo)).length ≤ k) (inside : k < l.length) : lo ≤ l[k] := by
  have := getElem_of_few few inside fun below i h => by
    have le := List.pairwise_iff_getElem.mp sorted i k (by omega) inside h
    simp only [decide_eq_true_eq] at below ⊢
    omega
  simpa using this

/-- The number with k others after it in a sorted list is not above a bound that at most k numbers are above. -/
theorem getElem_le_of_few {l : List Int} (sorted : l.Pairwise (· ≤ ·)) {hi : Int} {k : Nat}
    (few : (l.filter fun d => decide (hi < d)).length ≤ k) (inside : k < l.length) : l[l.length - 1 - k] ≤ hi := by
  have few' : (l.reverse.filter fun d => decide (hi < d)).length ≤ k := by
    rw [List.filter_reverse, List.length_reverse]
    exact few
  have := getElem_of_few few' (by simpa using inside) fun above i h => by
    simp only [List.getElem_reverse, decide_eq_true_eq] at above ⊢
    have le := List.pairwise_iff_getElem.mp sorted (l.length - 1 - k) (l.length - 1 - i) (by omega) (by omega) (by omega)
    omega
  simpa [List.getElem_reverse] using this

theorem tdiv_two_between {a lo hi : Int} (below : 2 * lo ≤ a) (above : a ≤ 2 * hi) :
    lo ≤ Int.tdiv a 2 ∧ Int.tdiv a 2 ≤ hi := by
  have lower := Int.tdiv_le_tdiv (c := 2) (by omega) below
  have upper := Int.tdiv_le_tdiv (c := 2) (by omega) above
  rw [Int.mul_tdiv_cancel_left _ (by omega)] at lower upper
  exact ⟨lower, upper⟩

theorem filter_length_mono {p q : Int → Bool} (l : List Int) (h : ∀ d, p d = true → q d = true) :
    (l.filter p).length ≤ (l.filter q).length := by
  rw [← List.countP_eq_length_filter, ← List.countP_eq_length_filter]
  exact List.countP_mono_left fun d _ => h d

/-- Settles O47: trimming as many at each end as are wrong, the kept ends lie between honest deviations. -/
theorem midpointToleratesWrongDeviations : Obligations.MidpointToleratesWrongDeviations := by
  refine ⟨fun deviations ordered perm sorted => ?_, fun deviations lo hi =>
    ⟨fun empty => (midpoint_none_iff _).mpr empty, fun nonempty few => ?_⟩⟩
  · intro trimmed least greatest hl hg
    have nonempty : deviations ≠ [] := by
      rintro rfl
      rw [List.perm_nil.mp perm] at hl
      simp at hl
    obtain ⟨l, g, hl', hg', mid⟩ := midpoint_eq nonempty
    rw [rising_unique perm sorted] at hl hg
    rw [mid]
    obtain rfl : l = least := Option.some.inj (hl'.symm.trans hl)
    obtain rfl : g = greatest := Option.some.inj (hg'.symm.trans hg)
    rfl
  · have kept := trimmed_lt (List.length_pos_iff.mpr nonempty)
    have length := rising_length deviations
    have few : ((rising deviations).filter fun d => decide (d < lo ∨ hi < d)).length ≤ trimmedAtEachEnd deviations.length := by
      rw [((rising_perm deviations).filter _).length_eq]
      exact few
    obtain ⟨l, g, hl, hg, mid⟩ := midpoint_eq nonempty
    obtain ⟨inside, rfl⟩ := List.getElem?_eq_some_iff.mp hl
    obtain ⟨inside', rfl⟩ := List.getElem?_eq_some_iff.mp hg
    have above := le_getElem_of_few (rising_pairwise deviations) (lo := lo)
      ((filter_length_mono _ fun d h => by simp at h ⊢; exact .inl h).trans few) inside
    have below := getElem_le_of_few (rising_pairwise deviations) (hi := hi)
      ((filter_length_mono _ fun d h => by simp at h ⊢; exact .inr h).trans few) inside
    simp only [length] at below
    have between : (rising deviations)[trimmedAtEachEnd deviations.length] ≤
        (rising deviations)[deviations.length - 1 - trimmedAtEachEnd deviations.length] := by
      rcases Nat.eq_or_lt_of_le (show trimmedAtEachEnd deviations.length ≤
        deviations.length - 1 - trimmedAtEachEnd deviations.length by omega) with h | h
      · simp only [← h, le_refl]
      · exact List.pairwise_iff_getElem.mp (rising_pairwise deviations) _ _ inside inside' h
    exact ⟨_, mid, tdiv_two_between (by omega) (by omega)⟩

/-! ## A round end -/

theorem boundedBy_eq (limit : Nat) (raw : Int) : boundedBy limit raw = max (-(limit : Int)) (min limit raw) := by
  unfold boundedBy
  split <;> [omega; split <;> omega]

/-- A correction is clamped exactly where the midpoint lies beyond the limit. -/
theorem boundedBy_clamps (limit : Nat) (m : Int) : (boundedBy limit (-m) != -m) = decide ((limit : Int) < |m|) := by
  rw [boundedBy_eq, Bool.eq_iff_iff, bne_iff_ne, decide_eq_true_iff, lt_abs]
  omega

theorem correctionRecord_none {limit : Nat} {ended : Round} {ds : List Int} (h : midpoint ds = none) :
    correctionRecord limit ended ds =
      { round := ended, count := ds.length, midpoint := none, applied := none, clamped := false } := by
  simp only [correctionRecord, h]

theorem correctionRecord_some {limit : Nat} {ended : Round} {ds : List Int} {m : Int} (h : midpoint ds = some m) :
    correctionRecord limit ended ds =
      { round := ended, count := ds.length, midpoint := some m, applied := some (max (-(limit : Int)) (min limit (-m)))
        clamped := decide ((limit : Int) < |m|) } := by
  simp only [correctionRecord, h, boundedBy_clamps]
  rw [boundedBy_eq]

/-- A jump of common time. -/
theorem TimeUnit.count_jump (t : TimeUnit) (p : Profile) {c : Int} (forward : 0 < c) (positive : 0 < p.cycle) :
    TimeUnit.count { t with correctionOffset := t.correctionOffset + c } p = (t.count p + c.natAbs) % p.cycle := by
  have nonneg : 0 ≤ ((t.localCounter : Int) + t.correctionOffset) % p.cycle := Int.emod_nonneg _ (by omega)
  have size : (c.natAbs : Int) = c := by omega
  unfold TimeUnit.count
  dsimp only
  zify
  rw [Int.toNat_of_nonneg (Int.emod_nonneg _ (by omega)), Int.toNat_of_nonneg nonneg, Int.emod_add_emod, abs_of_pos forward]
  ring_nf

/-- What a correction makes of common time and of the hold. -/
theorem TimeUnit.applyCorrection_spec (t : TimeUnit) (p : Profile) (c : Int) (positive : 0 < p.cycle) :
    (0 < c → (t.applyCorrection c).holdCount = t.holdCount ∧
      (t.applyCorrection c).count p = (t.count p + c.natAbs) % p.cycle) ∧
    (c < 0 → (t.applyCorrection c).holdCount = c.natAbs ∧ (t.applyCorrection c).count p = t.count p) ∧
    (c = 0 → (t.applyCorrection c).holdCount = t.holdCount ∧ (t.applyCorrection c).count p = t.count p) := by
  unfold TimeUnit.applyCorrection
  refine ⟨fun forward => ?_, fun back => ?_, fun still => ?_⟩
  · rw [if_pos forward]
    exact ⟨rfl, t.count_jump p forward positive⟩
  · rw [if_neg (by omega), if_pos back]
    exact ⟨rfl, rfl⟩
  · rw [if_neg (by omega), if_neg (by omega)]
    exact ⟨rfl, rfl⟩

/-- The Time Unit after a round end that corrects. -/
def State.correctedTime (b : SlotStart) (s : State) : TimeUnit :=
  (s.time.correct s.settings.profile.correctionLimit (b.round - 1)).requalify s.ctrl.station

/-- The record of a round end that corrects. -/
def State.recordAt (b : SlotStart) (s : State) : Correction :=
  correctionRecord s.settings.profile.correctionLimit (b.round - 1) (s.time.deviations.map (·.2))

theorem State.correctedTime_eq (b : SlotStart) (s : State) : s.correctedTime b =
    { s.time.applyCorrection ((s.recordAt b).applied.getD 0) with
      deviations := [], lastCorrection := some (s.recordAt b)
      quality := if s.time.quality = .noTime then .noTime else qualityBy s.ctrl.station (some (s.recordAt b)) } := by
  have quality (c : Int) : (s.time.applyCorrection c).quality = s.time.quality := by
    unfold TimeUnit.applyCorrection
    split <;> [rfl; split <;> rfl]
  simp only [State.correctedTime, TimeUnit.correct, TimeUnit.requalify, quality]
  rfl

theorem timeRoundEnd_corrects {b : SlotStart} {s : State} (running : s.ctrl.slotTimer ≠ none)
    (begun : ¬ s.startsIntegrationRound b = true) :
    timeRoundEnd b s = (holdPersistent (s.setTime (s.correctedTime b)), some (s.recordAt b).report) := by
  rw [timeRoundEnd, if_neg (by simpa using running), if_neg begun]
  rfl

theorem State.startsIntegrationRound_iff (s : State) (b : SlotStart) : s.startsIntegrationRound b = true ↔
    s.ctrl.station = .integrate ∧ ∃ heard, s.ctrl.integration = some (b.round, heard) := by
  cases h : s.ctrl.integration <;> simp [State.startsIntegrationRound, h, Prod.ext_iff]

/-- The quality after a round end, by the record and its report. -/
theorem qualityBy_record (st : StationState) (limit : Nat) (ended : Round) (ds : List Int) :
    qualityBy st (some (correctionRecord limit ended ds)) = if st ≠ .active then .suspect
      else if midpoint ds = none then .sole
      else if (correctionRecord limit ended ds).report = .clamped then .suspect else .sound := by
  have empty := midpoint_none_iff ds
  cases st <;> simp only [qualityBy, ne_eq, reduceCtorEq, not_false_eq_true, not_true, ↓reduceIte]
  cases m : midpoint ds with
  | none =>
    rw [correctionRecord_none m]
    simp [empty.mp m]
  | some mid =>
    have some_ : ds.length ≠ 0 := fun h => by simp [empty.mpr (List.length_eq_zero_iff.mp h)] at m
    rw [correctionRecord_some m]
    by_cases clamped : (limit : Int) < |mid| <;> simp [Correction.report, clamped, some_]

theorem holdPersistent_writes (s : State) : holdPersistent s = s.setPort (holdPersistent s).port := by
  apply State.ext_blocks <;> simp

/-- Settles O46: the record, what its correction makes of common time, and the quality that follows. -/
theorem roundEndCorrects : Obligations.RoundEndCorrects := by
  intro b s positive limit m
  refine ⟨fun stopped => if_pos (by simp [stopped]), fun running integrate begun => ?_, fun running notBegun => ?_⟩
  · have begins := (s.startsIntegrationRound_iff b).mpr ⟨integrate, begun⟩
    rw [timeRoundEnd, if_neg (by simpa using running), if_pos begins]
    rfl
  · have corrects := timeRoundEnd_corrects running (mt (s.startsIntegrationRound_iff b).mp notBegun)
    have time : (holdPersistent (s.setTime (s.correctedTime b))).time = s.correctedTime b := by simp
    have fields := s.correctedTime_eq b
    have quality := qualityBy_record s.ctrl.station s.settings.profile.correctionLimit (b.round - 1)
      (s.time.deviations.map (·.2))
    have length : (s.time.deviations.map (·.2)).length = s.time.deviations.length := List.length_map _
    refine ⟨_, _, corrects, fun none_ => ?_, fun mid some_ => ?_, ?_, ?_, ?_, ⟨fun c => ?_, holdPersistent_port _⟩, ?_⟩
    · have record : s.recordAt b = _ := correctionRecord_none none_
      obtain ⟨-, -, still⟩ := s.time.applyCorrection_spec s.settings.profile 0 positive
      obtain ⟨hold, count⟩ := still rfl
      rw [time, fields, record, length]
      exact ⟨hold, count, rfl, rfl⟩
    · have record : s.recordAt b = _ := correctionRecord_some some_
      obtain ⟨forward, back, still⟩ :=
        s.time.applyCorrection_spec s.settings.profile (max (-limit) (min limit (-mid))) positive
      rw [time, fields, record, length]
      refine ⟨_, rfl, forward, back, still, rfl, ?_⟩
      by_cases clamped : limit < |mid| <;> simp [Correction.report, limit, clamped]
    · rw [time, fields]
      show (s.time.applyCorrection _).localCounter = _
      unfold TimeUnit.applyCorrection
      split <;> [rfl; split <;> rfl]
    · rw [time, fields]
    · rw [time, fields]
      exact if_congr Iff.rfl rfl quality
    · rw [holdPersistent_raised]
      have suspect : (holdPersistent (s.setTime (s.correctedTime b))).timeSuspect = (s.setTime (s.correctedTime b)).timeSuspect := by
        simp [State.timeSuspect]
      have duplicated : (s.setTime (s.correctedTime b)).duplicated = true ↔ s.ctrl.station = .faulted := by
        simp [State.duplicated]
      rw [suspect, duplicated]
      exact or_congr Iff.rfl (or_congr and_comm and_comm)
    · rw [time]
      exact holdPersistent_writes _

end Sys2Proof.Machine
end

section
/-! SUPPORT. What a round end removes from the Outbound Queue, and the entry to COLDSTART at the listen timer's expiry. -/

namespace Sys2Proof.Machine

/-! ## Removal -/

/-- The records of the queue that a round end in ACTIVE may remove. -/
def State.removable (s : State) (r : QueuedRecord) : Bool :=
  if s.viewPeers.isEmpty then r.announced else s.ackedByView r

theorem State.ackedByView_iff (s : State) (r : QueuedRecord) : s.ackedByView r = true ↔
    ∀ p ∈ s.viewPeers, ∃ q, s.queue.ackedThrough[p] = some q ∧ (q - r.sequence).toNat ≤ 16383 := by
  rw [State.ackedByView, List.all_eq_true]
  refine forall₂_congr fun p _ => ?_
  cases s.queue.ackedThrough[p] with
  | none => simp
  | some q => simp [followsOrEqualsSeq_iff]

theorem outboundRoundEnd_active {s : State} (active : s.ctrl.station = .active) :
    outboundRoundEnd s = removeWhile s.removable s := by
  rw [outboundRoundEnd, if_pos active, removeAcknowledged]
  cases h : s.viewPeers.isEmpty with
  | true =>
    rw [if_pos rfl]
    congr 1
    funext r
    rw [State.removable, if_pos h]
  | false =>
    rw [if_neg Bool.false_ne_true, if_neg Bool.false_ne_true]
    congr 1
    funext r
    rw [State.removable, if_neg (by simp [h])]

/-- Removal where no loss is pending, or nothing goes. -/
theorem removeWhile_silent {test : QueuedRecord → Bool} {s : State}
    (h : s.queue.records.takeWhile test = [] ∨ s.capture.pendingLoss = none) :
    removeWhile test s = s.setQueue { s.queue with records := s.queue.records.dropWhile test } := by
  have parts := congrArg List.length (List.takeWhile_append_dropWhile (p := test) (l := s.queue.records))
  rw [List.length_append] at parts
  refine iteInduction (motive := fun t : State => t = _) (fun fewer => ?_) fun _ => rfl
  have none_ : s.capture.pendingLoss = none := h.resolve_left fun e => by
    rw [e] at parts
    simp only [List.length_nil] at parts
    omega
  simp only [writePendingLoss, State.setQueue_capture, none_]

/-- Removal of some record while a loss is pending. -/
theorem removeWhile_writes {test : QueuedRecord → Bool} {s : State} {l : PendingLoss}
    (gone : s.queue.records.takeWhile test ≠ []) (loss : s.capture.pendingLoss = some l) :
    removeWhile test s = enqueue l.draft ((s.setQueue { s.queue with records := s.queue.records.dropWhile test }).setCapture
      { s.capture with pendingLoss := none }) := by
  have parts := congrArg List.length (List.takeWhile_append_dropWhile (p := test) (l := s.queue.records))
  rw [List.length_append] at parts
  have positive := List.length_pos_iff.mpr gone
  rw [removeWhile, if_pos (by omega)]
  simp only [writePendingLoss, State.setQueue_capture, loss]

/-- Settles O48: the removed records are those `removable` at the head. -/
theorem roundEndRemovesRecords : Obligations.RoundEndRemovesRecords := by
  intro s inView goes
  have inView_iff (p : StationNo) : inView p ↔ p ∈ s.viewPeers := (s.mem_viewPeers p).symm
  have some_ : (∃ p, inView p) ↔ ¬ s.viewPeers.isEmpty = true := by
    rw [List.isEmpty_iff]
    exact ⟨fun ⟨p, hp⟩ => List.ne_nil_of_mem ((inView_iff p).mp hp), fun h =>
      (List.exists_mem_of_ne_nil _ h).imp fun p => (inView_iff p).mpr⟩
  have goes_iff (r : QueuedRecord) : goes r ↔ s.removable r = true := by
    show (_ ∧ _) ∨ (_ ∧ _) ↔ _
    rw [some_, State.removable]
    by_cases h : s.viewPeers.isEmpty = true
    · simp [h]
    · simp only [h, not_false_eq_true, true_and, not_true, false_and, or_false, Bool.false_eq_true, ↓reduceIte,
        s.ackedByView_iff, inView_iff]
  refine ⟨fun elsewhere => if_neg elsewhere, fun active => ?_⟩
  rw [outboundRoundEnd_active active]
  refine ⟨s.queue.records.takeWhile s.removable, s.queue.records.dropWhile s.removable,
    List.takeWhile_append_dropWhile.symm, fun r hr => (goes_iff r).mpr (List.mem_takeWhile_imp hr), fun r hr => ?_, removeWhile_silent,
    fun l gone loss => ?_⟩
  · rw [goes_iff]
    have := List.head?_dropWhile_not s.removable s.queue.records
    rw [hr] at this
    simpa using this
  · rw [removeWhile_writes gone loss]
    rfl

/-! ## The listen timer's expiry -/

/-- The start of the own slot as a count of common time, which it does not exceed. -/
theorem ownSlotStart_lt {p : Profile} (h : p.inRange = true) {own : StationNo} (inside : own.val < p.slotCount) (r : Round) :
    SlotStart.count p { round := r, slot := own.val } < p.cycle := by
  have offset : own.val * p.slotLength + 20 < p.roundLength := Profile.sofOffset_lt h inside
  have rounds : (r.toNat + 1) * p.roundLength ≤ 2 ^ 40 * p.roundLength := Nat.mul_le_mul_right _ r.isLt
  rw [Nat.succ_mul] at rounds
  unfold SlotStart.count Profile.cycle
  dsimp only
  omega

theorem TimeUnit.replace_count (t : TimeUnit) {p : Profile} {count : Nat} (h : count < p.cycle) :
    (t.replace count).count p = count := by
  unfold TimeUnit.replace TimeUnit.moveTo TimeUnit.count
  dsimp only
  rw [add_sub_cancel]
  exact Nat.mod_eq_of_lt h

/-- The time at the start of the own slot, and the slot start after it. -/
theorem ownSlotStart_after {p : Profile} (h : p.inRange = true) {own : StationNo} (inside : own.val < p.slotCount) (r : Round) :
    slotStartAfter p (.ofCount p.roundLength (SlotStart.count p { round := r, slot := own.val })) =
      SlotStart.next p { round := r, slot := own.val } := by
  have offset : own.val * p.slotLength + 20 < p.roundLength := Profile.sofOffset_lt h inside
  have slotLength : 0 < p.slotLength := by
    simp only [Profile.inRange, Bool.and_eq_true, decide_eq_true_eq] at h
    omega
  have round : SlotStart.count p { round := r, slot := own.val } / p.roundLength = r.toNat := by
    rw [SlotStart.count, Nat.add_comm, Nat.add_mul_div_right _ _ (by omega), Nat.div_eq_of_lt (by dsimp only; omega), zero_add]
  have rest : SlotStart.count p { round := r, slot := own.val } % p.roundLength = own.val * p.slotLength := by
    rw [SlotStart.count, Nat.add_comm, Nat.add_mul_mod_self_right, Nat.mod_eq_of_lt (by dsimp only; omega)]
  unfold slotStartAfter CommonTime.ofCount
  dsimp only
  rw [round, rest, Nat.mul_div_cancel _ slotLength, BitVec.ofNat_toNat, BitVec.setWidth_eq]

section

variable (s : State)

/-- The start of the own slot in the round R0 of a cold start. -/
def State.coldstartCount : Nat := SlotStart.count s.settings.profile { round := s.coldstartRound, slot := s.own.val }

theorem enterColdstart_time : (enterColdstart s).time = s.time.replace s.coldstartCount := by
  simp [enterColdstart, restartSlotTimer, TimeUnit.requalify, TimeUnit.replace, qualityBy, State.coldstartCount]

theorem enterColdstart_ctrl : (enterColdstart s).ctrl = { s.ctrl with
    station := .coldstart
    listenTimer := none
    contention := some s.coldstartRound
    slotTimer := some (slotStartAfter s.settings.profile (s.setTime (s.time.replace s.coldstartCount)).commonTime) } := by
  simp [enterColdstart, restartSlotTimer, State.coldstartCount]

theorem enterColdstart_line {s : State} (free : s.line.transmitter = .idle ∨ ∃ o, s.line.transmitter = .ordered o) :
    (enterColdstart s).line = { s.line with
      transmitter := .ordered { kind := .startup, departing := false, round := s.coldstartRound } } := by
  unfold enterColdstart
  dsimp only
  rw [placeOrder_free (.inl (by rw [changeStation_line]; exact withdraw_free free)), changeStation_line]
  rfl

/-- The entry is a change of station state, from a state with the same port, and an order. -/
theorem enterColdstart_changes : ∃ (u : State) (o : TransmitOrder), u.port = s.port ∧
    enterColdstart s = placeOrder o (changeStation .coldstart u) := ⟨_, _, by simp, rfl⟩

theorem enterColdstart_raised (c : Cause) : (enterColdstart s).raised c = true ↔
    s.raised c = true ∨ c = .stateChange ∨ c = .timeSuspect := by
  have suspect : (enterColdstart s).timeSuspect = true := by
    simp [State.timeSuspect, enterColdstart_time, enterColdstart_ctrl, TimeUnit.replace]
  obtain ⟨u, o, port, eq⟩ := enterColdstart_changes s
  rw [eq] at suspect ⊢
  have suspect : (changeStation .coldstart u).timeSuspect = true := by simpa [State.timeSuspect] using suspect
  have raised : (placeOrder o (changeStation .coldstart u)).raised c = (changeStation .coldstart u).raised c := by
    simp [State.raised]
  rw [raised, changeStation_raised, suspect]
  simp [State.raised, port]

theorem enterColdstart_port : SamePort s (enterColdstart s) := by
  obtain ⟨u, o, port, eq⟩ := enterColdstart_changes s
  rw [eq]
  have placed : SamePort (changeStation .coldstart u) (placeOrder o (changeStation .coldstart u)) :=
    SamePort.same (by simp)
  exact (SamePort.same port).trans ((changeStation_port .coldstart u).trans placed)

theorem enterColdstart_writes : enterColdstart s = { s with
    ctrl := (enterColdstart s).ctrl, line := (enterColdstart s).line, time := (enterColdstart s).time
    port := (enterColdstart s).port } := by
  apply State.ext_blocks <;> simp

end

/-- Settles O49: the entry to COLDSTART, field by field. -/
theorem listenExpiryColdstarts : Obligations.ListenExpiryColdstarts := by
  intro s consistent
  refine ⟨fun elsewhere => ?_, fun wait listen timer idle => ?_⟩
  · simp only [exec, execListenTimerExpiry]
    split
    · exact absurd ‹_› elsewhere
    · rfl
  · have taken : exec .listenTimerExpiry s = .next (enterColdstart (passTime wait s)) := by
      simp only [exec, execListenTimerExpiry, listen, timer]
    generalize hnow : passTime wait s = now at taken
    have settings : now.settings = s.settings := by rw [← hnow]; rfl
    have quality : now.time.quality = s.time.quality := by rw [← hnow]; rfl
    have free : now.line.transmitter = .idle := by rw [← hnow]; simp [passTime, idle, Transmitter.pass]
    have inRange : now.settings.profile.inRange = true := by rw [settings]; exact consistent.profile
    have inside : now.own.val < now.settings.profile.slotCount := by
      unfold State.own
      rw [settings]
      exact consistent.number (by rw [listen]; decide)
    have count := now.time.replace_count (ownSlotStart_lt inRange inside now.coldstartRound)
    refine ⟨now, enterColdstart now, now.coldstartRound, rfl, taken, by rw [← quality]; rfl, ?_, ?_, ?_, ?_, ⟨fun c => ?_, ?_⟩, ?_⟩
    · rw [enterColdstart_time, ← settings]
      refine count.trans ?_
      simp only [SlotStart.count, State.own, State.roundLength, settings]
    · rw [enterColdstart_ctrl]
      have after : slotStartAfter now.settings.profile (now.setTime (now.time.replace now.coldstartCount)).commonTime =
          SlotStart.next now.settings.profile { round := now.coldstartRound, slot := now.own.val } := by
        refine Eq.trans ?_ (ownSlotStart_after inRange inside now.coldstartRound)
        exact congrArg (fun n => slotStartAfter _ (CommonTime.ofCount _ n)) count
      rw [after]
      simp only [SlotStart.next, State.own, settings]
      rfl
    · exact enterColdstart_line (.inl free)
    · rw [enterColdstart_time]
      rfl
    · rw [enterColdstart_raised]
    · exact enterColdstart_port now
    · exact enterColdstart_writes now

end Sys2Proof.Machine
end

section
/-! SUPPORT. Sample events: what an input makes of its level, the trackers, and the records handed to the Outbound
Queue. -/

namespace Sys2Proof.Machine

/-! ## Trackers -/

section

variable (debounce : Nat) (level : Bool) (stamps : Nat → Stamp)

/-- Samples at one level, one after another. -/
def TrackerState.samples (k : Nat) (t : TrackerState) : TrackerState :=
  (List.range k).foldl (fun t i => (TrackerState.sample debounce (stamps i) level t).1) t

theorem TrackerState.samples_succ (k : Nat) (t : TrackerState) : t.samples debounce level stamps (k + 1) =
    (TrackerState.sample debounce (stamps k) level (t.samples debounce level stamps k)).1 := by
  rw [samples, samples, List.range_succ, List.foldl_append]
  rfl

/-- Before the D-th sample of a run a tracker in UNSET counts it. -/
theorem TrackerState.samples_unset {k : Nat} (few : k + 1 < debounce) :
    (TrackerState.unset none 0).samples debounce level stamps (k + 1) = .unset (some level) (k + 1) := by
  induction k with
  | zero =>
    have : ¬ debounce ≤ 1 := by omega
    simp [samples, TrackerState.sample, this]
  | succ k ih =>
    have : ¬ debounce ≤ k + 1 + 1 := by omega
    rw [samples_succ, ih (by omega)]
    simp [TrackerState.sample, this]

/-- Before the D-th sample at the other level a change is a candidate, dated by the first of them. -/
theorem TrackerState.samples_candidate {k : Nat} (few : k + 1 < debounce) :
    (TrackerState.stable (!level)).samples debounce level stamps (k + 1) = .candidate (!level) (k + 1) (stamps 0) := by
  induction k with
  | zero =>
    have : ¬ debounce ≤ 1 := by omega
    simp [samples, TrackerState.sample, this]
  | succ k ih =>
    have : ¬ debounce ≤ k + 1 + 1 := by omega
    rw [samples_succ, ih (by omega)]
    simp [TrackerState.sample, this]

end

/-- Settles O51: the runs of equal samples by induction, and the D-th sample by evaluation. -/
theorem trackerAcceptsAfterDebounce : Obligations.TrackerAcceptsAfterDebounce := by
  intro debounce level stamps positive
  refine ⟨fun k first few => ?_, fun several => ?_, fun one => ?_, by simp [TrackerState.sample], fun n => ?_⟩
  · obtain ⟨k, rfl⟩ := Nat.exists_eq_succ_of_ne_zero (show k ≠ 0 by omega)
    exact ⟨TrackerState.samples_unset debounce level stamps few, TrackerState.samples_candidate debounce level stamps few,
      by simp [TrackerState.sample]⟩
  · obtain ⟨k, rfl⟩ := Nat.exists_eq_succ_of_ne_zero (show debounce ≠ 0 by omega)
    simp [TrackerState.sample]
  · simp [TrackerState.sample, one]
  · have : debounce ≤ 1 ↔ debounce = 1 := by omega
    simp [TrackerState.sample, this]

/-! ## An input at a sample event -/

theorem InputSettings.seen_eq (c : InputSettings) (pin : Bool) : c.seen pin = if c.invert then !pin else pin := by
  cases h : c.invert <;> simp [InputSettings.seen, h]

theorem InputSettings.overlaid_iff (c : InputSettings) : c.overlaid = true ↔ 2 ≤ c.chatter ∧ c.edge ≠ .off := by
  simp [InputSettings.overlaid]

section

variable {c : InputSettings} {producing : Bool} {stamp : Stamp} {source : InputNo} {level : Bool} {t : Tracker}

theorem Tracker.sample_none (h : (t.state.sample c.debounce stamp level).2 = none) :
    t.sample c producing stamp source level = ({ t with state := (t.state.sample c.debounce stamp level).1 }, none) := by
  unfold Tracker.sample
  rw [show t.state.sample c.debounce stamp level = ((t.state.sample c.debounce stamp level).1, none) from Prod.ext rfl h]

theorem Tracker.sample_some {first : Stamp} {new : Bool}
    (h : (t.state.sample c.debounce stamp level).2 = some (first, new)) :
    t.sample c producing stamp source level =
      ({ state := (t.state.sample c.debounce stamp level).1, windowCount := countUp255 t.windowCount
         chattering := t.chattering || (c.overlaid && !t.chattering && decide (countUp255 t.windowCount = c.chatter)) },
       changeDraft c producing t.chattering (c.overlaid && !t.chattering && decide (countUp255 t.windowCount = c.chatter))
         source first new) := by
  unfold Tracker.sample
  rw [show t.state.sample c.debounce stamp level = ((t.state.sample c.debounce stamp level).1, some (first, new)) from
    Prod.ext rfl h]

/-- What a sample leaves of an input's tracker. -/
theorem Tracker.sample_tracker (c : InputSettings) (producing : Bool) (stamp : Stamp) (source : InputNo) (level : Bool)
    (t : Tracker) :
    let moved := t.state.sample c.debounce stamp level
    let counted := if moved.2.isSome then min (t.windowCount + 1) 255 else t.windowCount
    let sampled := (t.sample c producing stamp source level).1
    sampled.state = moved.1 ∧ sampled.windowCount = counted ∧ (sampled.chattering = true ↔ t.chattering = true ∨
      (moved.2.isSome = true ∧ (2 ≤ c.chatter ∧ c.edge ≠ .off) ∧ counted = c.chatter)) := by
  intro moved counted sampled
  cases h : moved.2 with
  | none =>
    rw [show sampled = _ from congrArg Prod.fst (Tracker.sample_none h)]
    simp [counted, h, moved]
  | some accepted =>
    rw [show sampled = _ from congrArg Prod.fst (Tracker.sample_some h)]
    refine ⟨rfl, by simp [counted, h, countUp255], ?_⟩
    have count : countUp255 t.windowCount = counted := by simp [counted, h, countUp255]
    rw [Bool.or_eq_true, Bool.and_eq_true, Bool.and_eq_true, decide_eq_true_iff, c.overlaid_iff, count]
    cases t.chattering <;> simp

/-- What the end of a window leaves of an input's tracker. -/
theorem Tracker.endWindow_tracker (c : InputSettings) (producing : Bool) (stamp : Stamp) (source : InputNo) (t : Tracker) :
    let ended := (t.endWindow c producing stamp source).1
    ended.state = t.state ∧ ended.windowCount = 0 ∧ (ended.chattering = true ↔
      t.chattering = true ∧ ¬ ((2 ≤ c.chatter ∧ c.edge ≠ .off) ∧ t.windowCount = 0)) := by
  refine ⟨rfl, rfl, ?_⟩
  have overlaid := c.overlaid_iff
  simp only [Tracker.endWindow, Bool.and_eq_true, Bool.not_eq_true', Bool.eq_false_iff, ne_eq, beq_iff_eq, overlaid]
  tauto

end

/-- One input's part of a sample event, and of the end of a window if it is one. -/
theorem State.sampleInput_eq (s : State) (ends : Bool) (levels : BitVec 8) (i : InputNo) : s.sampleInput ends levels i =
    let c := s.settings.inputs[i]
    let sampled := s.capture.trackers[i].sample c s.producing s.stampNow i (c.seen (levels.getLsbD i.val))
    if ends then ((sampled.1.endWindow c s.producing s.stampNow i).1,
      sampled.2.or (sampled.1.endWindow c s.producing s.stampNow i).2) else sampled := rfl

/-- The tracker that a sample event leaves of an input. -/
theorem State.sampleInput_tracker (s : State) (ends : Bool) (levels : BitVec 8) (i : InputNo) :
    let c := s.settings.inputs[i]
    let tracker := s.capture.trackers[i]
    let moved := tracker.state.sample c.debounce s.stampNow (c.seen (levels.getLsbD i.val))
    let counted := if moved.2.isSome then min (tracker.windowCount + 1) 255 else tracker.windowCount
    let overlaid := 2 ≤ c.chatter ∧ c.edge ≠ .off
    let chatters := tracker.chattering = true ∨ (moved.2.isSome = true ∧ overlaid ∧ counted = c.chatter)
    (s.sampleInput ends levels i).1.state = moved.1 ∧
    (s.sampleInput ends levels i).1.windowCount = (if ends then 0 else counted) ∧
    ((s.sampleInput ends levels i).1.chattering = true ↔ chatters ∧ ¬ (ends = true ∧ overlaid ∧ counted = 0)) := by
  intro c tracker moved counted overlaid chatters
  obtain ⟨state, count, chattering⟩ := tracker.sample_tracker c s.producing s.stampNow i (c.seen (levels.getLsbD i.val))
  rw [State.sampleInput_eq]
  dsimp only
  cases ends with
  | false => exact ⟨state, count, chattering.trans (by simp [chatters, overlaid, counted, moved])⟩
  | true =>
    obtain ⟨state', count', chattering'⟩ := (tracker.sample c s.producing s.stampNow i
      (c.seen (levels.getLsbD i.val))).1.endWindow_tracker c s.producing s.stampNow i
    rw [chattering, count] at chattering'
    exact ⟨state'.trans state, count', chattering'.trans (by simp [chatters, overlaid, counted, moved])⟩

/-! ## The sample event -/

theorem handOver_capture (d : Draft) (s : State) :
    let kept := fun t : State => (t.capture.trackers, t.capture.windowCounter, t.capture.untilSample)
    kept (handOver d s) = kept s :=
  handOver_ind (P := fun t => (t.capture.trackers, t.capture.windowCounter, t.capture.untilSample) =
    (s.capture.trackers, s.capture.windowCounter, s.capture.untilSample)) d s (by simp [loseRecord]) fun _ => by simp

/-- What a sample event leaves of the Capture Unit. -/
theorem takeSample_capture (levels : BitVec 8) (s : State) :
    (takeSample levels s).capture.trackers = Vector.ofFn (fun i => (s.sampleInput s.endsWindow levels i).1) ∧
    (takeSample levels s).capture.windowCounter = (if s.endsWindow then 0 else s.capture.windowCounter + 1) ∧
    (takeSample levels s).capture.untilSample = some 100 := by
  have kept := foldl_leaves (fun t : State => (t.capture.trackers, t.capture.windowCounter, t.capture.untilSample))
    (fun s d => handOver d s) (fun s d => handOver_capture d s) (s.sampleDrafts levels) (s.setCapture { s.capture with
      trackers := Vector.ofFn fun i => (s.sampleInput s.endsWindow levels i).1
      windowCounter := if s.endsWindow then 0 else s.capture.windowCounter + 1
      untilSample := some 100 })
  obtain ⟨trackers, rest⟩ := Prod.mk.inj kept
  obtain ⟨counter, untilSample⟩ := Prod.mk.inj rest
  exact ⟨trackers, counter, untilSample⟩

/-- Settles O50: the parts of `takeSample` that are the Capture Unit's. -/
theorem sampleMovesTrackers : Obligations.SampleMovesTrackers := by
  intro levels wait s due ends
  have ends_iff (now : State) (same : now.capture.windowCounter = s.capture.windowCounter) :
      now.endsWindow = true ↔ ends := by simp [State.endsWindow, ends, same]
  have taken : exec (.sampleEvent levels) s = .next (takeSample levels (passTime wait s)) := by
    simp only [exec, execSampleEvent, due]
  obtain ⟨trackers, counter, untilSample⟩ := takeSample_capture levels (passTime wait s)
  refine ⟨_, _, rfl, taken, fun h => ?_, fun h => ?_, untilSample, counter.trans (if_congr (ends_iff _ rfl) rfl rfl), fun i => ?_, ?_⟩
  · simp only [exec, execWindowEnd, due, (ends_iff s rfl).mpr h, ↓reduceIte]
  · simp only [exec, execWindowEnd, due, mt (ends_iff s rfl).mp h, Bool.false_eq_true, ↓reduceIte]
  · have moved := (passTime wait s).sampleInput_tracker (passTime wait s).endsWindow levels i
    have at_ : (takeSample levels (passTime wait s)).capture.trackers[i] =
        ((passTime wait s).sampleInput (passTime wait s).endsWindow levels i).1 := by
      rw [trackers]
      simp
    intro c tracker level
    have seen : c.seen (levels.getLsbD i.val) = level := c.seen_eq _
    rw [at_, ← seen]
    obtain ⟨state, count, chattering⟩ := moved
    have window := ends_iff (passTime wait s) rfl
    exact ⟨state, count.trans (if_congr window rfl rfl),
      chattering.trans (and_congr Iff.rfl (not_congr (and_congr window Iff.rfl)))⟩
  · apply State.ext_blocks <;> simp

/-! ## The records of a sample event -/

theorem allInputs_eq : allInputs = List.finRange 8 := by decide

/-- The records are the inputs' records in input order. -/
theorem sampleDrafts_eq (levels : BitVec 8) (s : State) : s.sampleDrafts levels =
    (List.ofFn fun i => (s.sampleInput s.endsWindow levels i).2).filterMap id := by
  rw [State.sampleDrafts, List.ofFn_eq_map, List.filterMap_map, allInputs_eq]
  rfl

/-- An accepted change makes its record, at the end of a window too: the input counted a change in it. -/
theorem State.sampleInput_change (s : State) (ends : Bool) (levels : BitVec 8) (i : InputNo) {first : Stamp} {new : Bool} :
    let c := s.settings.inputs[i]
    let tracker := s.capture.trackers[i]
    (tracker.state.sample c.debounce s.stampNow (c.seen (levels.getLsbD i.val))).2 = some (first, new) →
    (s.sampleInput ends levels i).2 = changeDraft c s.producing tracker.chattering
      (c.overlaid && !tracker.chattering && decide (min (tracker.windowCount + 1) 255 = c.chatter)) i first new := by
  intro c tracker h
  rw [State.sampleInput_eq]
  dsimp only
  rw [Tracker.sample_some h]
  cases ends with
  | false => rfl
  | true =>
    simp [Tracker.endWindow, countUp255]
    rfl

/-- Without one an input that stops chattering makes its record at the end of a window. -/
theorem State.sampleInput_window (s : State) (ends : Bool) (levels : BitVec 8) (i : InputNo) :
    let c := s.settings.inputs[i]
    let tracker := s.capture.trackers[i]
    let moved := tracker.state.sample c.debounce s.stampNow (c.seen (levels.getLsbD i.val))
    moved.2 = none → (s.sampleInput ends levels i).2 =
      if ends = true ∧ (2 ≤ c.chatter ∧ c.edge ≠ .off) ∧ tracker.chattering = true ∧ tracker.windowCount = 0 ∧
          s.producing = true ∧ s.time.quality ≠ .noTime then
        some { stamp := s.stampNow, source := BitVec.ofNat 8 i.val, kind := .chatterOff
               value := if moved.1.stableLevel = some true then 1 else 0 }
      else none := by
  intro c tracker moved h
  have value : levelValue (moved.1.stableLevel.getD false) = if moved.1.stableLevel = some true then 1 else 0 := by
    rcases moved.1.stableLevel with _ | _ | _ <;> rfl
  rw [State.sampleInput_eq]
  dsimp only
  rw [Tracker.sample_none h]
  cases ends with
  | false => simp
  | true =>
    simp only [↓reduceIte, Tracker.endWindow, Option.none_or, true_and]
    refine if_congr ?_ (by rw [← value]) rfl
    simp only [Bool.and_eq_true, InputSettings.overlaid_iff, beq_iff_eq, bne_iff_ne]
    exact ⟨fun ⟨⟨⟨⟨o, k⟩, n⟩, p⟩, q⟩ => ⟨o, k, n, p, q⟩, fun ⟨o, k, n, p, q⟩ => ⟨⟨⟨⟨o, k⟩, n⟩, p⟩, q⟩⟩

theorem Edge.selects_iff (e : Edge) (level : Bool) : e.selects level = true ↔
    (level = true ∧ e = .rise) ∨ (level = false ∧ e = .fall) ∨ e = .both := by
  cases e <;> cases level <;> simp [Edge.selects]

/-- The record of an accepted change, by what the input does with it. -/
theorem changeDraft_spec (c : InputSettings) (producing chattering starts : Bool) (source : InputNo) (first : Stamp)
    (level : Bool) :
    let draft := changeDraft c producing chattering starts source first level
    (producing = false ∨ first.quality = .noTime → draft = none) ∧
    (producing = true → first.quality ≠ .noTime → starts = true → draft = some
      { stamp := first, source := BitVec.ofNat 8 source.val, kind := .chatterOn, value := if level then 1 else 0 }) ∧
    (producing = true → first.quality ≠ .noTime → starts = false → chattering = true → draft = none) ∧
    (producing = true → first.quality ≠ .noTime → starts = false → chattering = false →
      draft = if (level = true ∧ c.edge = .rise) ∨ (level = false ∧ c.edge = .fall) ∨ c.edge = .both then
        some { stamp := first, source := BitVec.ofNat 8 source.val, kind := if level then .rise else .fall, value := 0 }
      else none) := by
  refine ⟨fun h => ?_, fun p q b => ?_, fun p q b k => ?_, fun p q b k => ?_⟩
  · rcases h with h | h <;> simp [changeDraft, h]
  · simp [changeDraft, p, q, b, levelValue]
  · simp [changeDraft, b, k]
  · simp only [changeDraft, p, b, k, ← Edge.selects_iff]
    simp [q]

/-- The hand-over where the queue has no room: the record is lost, and the loss begins or grows. -/
theorem handOver_closed {d : Draft} {s : State} (closed : 32 ≤ s.queue.records.length ∨ s.capture.pendingLoss ≠ none) :
    handOver d s = loseRecord d s :=
  if_pos (by simpa [State.queueClosed, Option.isSome_iff_ne_none] using closed)

theorem handOver_open {d : Draft} {s : State} (room : s.queue.records.length < 32) (none_ : s.capture.pendingLoss = none) :
    handOver d s = enqueue d s := if_neg (by simp [State.queueClosed, none_, room])

/-- Settles O52: the record of each input by cases on its accepted change, and the hand-over by the queue's room. -/
theorem sampleRecordsQueuedOrLost : Obligations.SampleRecordsQueuedOrLost := by
  refine ⟨fun levels s => ⟨fun i => (s.sampleInput s.endsWindow levels i).2, fun i => ?_,
    Vector.ofFn (fun i => (s.sampleInput s.endsWindow levels i).1), ?_⟩, fun d s => ⟨handOver_open, fun closed =>
      ⟨_, handOver_closed closed, ?_, fun none_ => ?_, fun l some_ => ?_, fun c => ?_, ?_⟩⟩⟩
  · intro c tracker source moved overlaid
    refine ⟨fun first level accepted => ?_, fun h => ?_⟩
    · have draft := s.sampleInput_change s.endsWindow levels i accepted
      intro begins
      have starts : (c.overlaid && !tracker.chattering && decide (min (tracker.windowCount + 1) 255 = c.chatter)) = true ↔
          begins := by
        simp only [Bool.and_eq_true, Bool.not_eq_true', decide_eq_true_eq, c.overlaid_iff, and_assoc, begins, overlaid]
      have notStarts (b : ¬ begins) := Bool.eq_false_of_not_eq_true (mt starts.mp b)
      obtain ⟨refused, on, silent, change⟩ := changeDraft_spec c s.producing tracker.chattering
        (c.overlaid && !tracker.chattering && decide (min (tracker.windowCount + 1) 255 = c.chatter)) i first level
      dsimp only
      rw [draft]
      exact ⟨refused, fun p q b => on p q (starts.mpr b), fun p q b => silent p q (notStarts b),
        fun p q b => change p q (notStarts b)⟩
    · exact (s.sampleInput_window s.endsWindow levels i h).trans (if_congr (and_congr decide_eq_true_iff Iff.rfl) rfl rfl)
  · have counter : (if s.endsWindow then 0 else s.capture.windowCounter + 1) =
        if 10000 ≤ s.capture.windowCounter + 1 then 0 else s.capture.windowCounter + 1 :=
      if_congr decide_eq_true_iff rfl rfl
    rw [takeSample, sampleDrafts_eq, counter]
    rfl
  · unfold loseRecord
    cases s.capture.pendingLoss.isNone <;> rfl
  · simp [loseRecord, none_, PendingLoss.after]
  · simp [loseRecord, some_, PendingLoss.after, countUp]
  · have lost : (loseRecord d s).raised c = true ↔ s.raised c = true ∨ (s.capture.pendingLoss.isNone = true ∧ c = .captureLoss) :=
      raiseIf_raised _ _ _ _
    rw [lost, Option.isNone_iff_eq_none, and_comm]
  · exact raiseIf_port _ _ _

end Sys2Proof.Machine
end

section
/-! SUPPORT. Insertion into the Journal, and the taking of a session by the records that await one. -/

namespace Sys2Proof.Machine

/-! ## Placement -/

theorem JournalRecord.keyEarlier_of_not_after {r a b : JournalRecord} (h : r.keyEarlier a = true) (k : a.keyNotAfter b) :
    r.keyEarlier b = true := by
  by_contra n
  have back : a.keyNotAfter r := JournalRecord.keyNotAfter_trans k (Bool.eq_false_of_not_eq_true n)
  rw [JournalRecord.keyNotAfter, h] at back
  cases back

/-- In a list in key order a record goes behind the records that are not later, and before those that are. -/
theorem placeByKey_between (r : JournalRecord) {l : List JournalRecord} (sorted : l.Pairwise JournalRecord.keyNotAfter) :
    ∃ before after, l = before ++ after ∧ (∀ x ∈ before, r.keyEarlier x = false) ∧ (∀ x ∈ after, r.keyEarlier x = true) ∧
      placeByKey r l = before ++ r :: after := by
  induction l with
  | nil => exact ⟨[], [], rfl, by simp, by simp, rfl⟩
  | cons x l ih =>
    obtain ⟨first, sorted⟩ := List.pairwise_cons.mp sorted
    rw [placeByKey]
    by_cases h : r.keyEarlier x = true
    · refine ⟨[], x :: l, rfl, by simp, ?_, by rw [if_pos h]; rfl⟩
      exact List.forall_mem_cons.mpr ⟨h, fun y hy => JournalRecord.keyEarlier_of_not_after h (first y hy)⟩
    · obtain ⟨before, after, parts, early, late, placed⟩ := ih sorted
      exact ⟨x :: before, after, by rw [parts]; rfl, List.forall_mem_cons.mpr ⟨Bool.eq_false_of_not_eq_true h, early⟩, late,
        by rw [if_neg h, placed]; rfl⟩

/-- The record r has been placed in the Journal k (R126): k' is what results. -/
def Journal.PlacedIn (r : JournalRecord) (late : Prop) (k k' : Journal) : Prop :=
  (late → k' = { k with
    released := k.released ++ [{ r with late := true }], late := min (k.late + 1) 65535 }) ∧
  (¬ late → ∃ before after, k.unreleased = before ++ after ∧
    (∀ x ∈ before, r.keyEarlier x = false) ∧ (∀ x ∈ after, r.keyEarlier x = true) ∧
    k' = { k with unreleased := before ++ r :: after })

theorem Journal.place_placedIn {k : Journal} (sorted : k.unreleased.Pairwise JournalRecord.keyNotAfter)
    {r : JournalRecord} {late : Prop} (isLate : k.isLate r = true ↔ late) : k.PlacedIn r late (k.place r) := by
  refine ⟨fun h => if_pos (isLate.mpr h), fun h => ?_⟩
  obtain ⟨before, after, parts, early, later, placed⟩ := placeByKey_between r sorted
  refine ⟨before, after, parts, early, later, ?_⟩
  rw [Journal.place, if_neg (mt isLate.mp h), placed]

/-- The earliest unreleased record of the Journal k and all of its timestamp have been released (R135). -/
def Journal.ForcedOut (k k' : Journal) : Prop := ∃ first, k.unreleased.head? = some first ∧ k' = { k with
  released := k.released ++ (k.unreleased.filter fun x => decide (x.time = first.time)).map
    fun x => { x with forced := true }
  unreleased := k.unreleased.filter fun x => decide (x.time ≠ first.time)
  horizon := some first.time
  forced := min (k.forced + (k.unreleased.filter fun x => decide (x.time = first.time)).length) 65535 }

theorem Journal.forcedRelease_forcedOut {k : Journal} (holds : k.unreleased ≠ []) : k.ForcedOut k.forcedRelease := by
  obtain ⟨first, rest, h⟩ := List.exists_cons_of_ne_nil holds
  refine ⟨first, by rw [h]; rfl, ?_⟩
  have equal (x : JournalRecord) : (x.time == first.time) = decide (x.time = first.time) := by
    rw [Bool.eq_iff_iff, beq_iff_eq, decide_eq_true_iff]
  have other (x : JournalRecord) : (x.time != first.time) = decide (x.time ≠ first.time) := by
    rw [Bool.eq_iff_iff, bne_iff_ne, decide_eq_true_iff]
  unfold Journal.forcedRelease
  split
  next e => simp [h] at e
  next first' rest' e =>
    obtain ⟨rfl, rfl⟩ : first' = first ∧ rest' = rest := by simpa [h] using e.symm
    simp only [equal, other, countUp]

/-! ## The causes -/

/-- A record is placed, and not dropped or discarded. -/
def Journal.places (j : Journal) (r : JournalRecord) : Bool :=
  !j.holds r && (!j.isFull || j.discardReleased.isSome || j.displaces r)

theorem journalInsert_raised (c : Cause) (r : JournalRecord) (s : State) : (journalInsert r s).raised c = true ↔
    s.raised c = true ∨ (s.journal.holds r = false ∧ s.journal.isFull = true ∧ c = .journalLoss) ∨
      (s.journal.places r = true ∧ s.journal.isLate r = true ∧ c = .lateRecord) := by
  have placed : journalInsert r s = raiseIf (s.journal.places r && s.journal.isLate r) .lateRecord
    (raiseIf (!s.journal.holds r && s.journal.isFull) .journalLoss (s.setJournal (s.journal.insert r))) := rfl
  rw [placed, raiseIf_raised, raiseIf_raised]
  simp only [Bool.and_eq_true, Bool.not_eq_true', and_assoc, or_assoc]
  rfl

theorem journalInsert_port (r : JournalRecord) (s : State) : SamePort s (journalInsert r s) :=
  have written : SamePort s (s.setJournal (s.journal.insert r)) := .same rfl
  (written.trans (raiseIf_port _ _ _)).trans (raiseIf_port _ _ _)

theorem journalInsert_writes (r : JournalRecord) (s : State) : journalInsert r s =
    { s with journal := (journalInsert r s).journal, port := (journalInsert r s).port } := by
  apply State.ext_blocks <;> simp

theorem CausesAdded.congr {s t : State} {added added' : Cause → Prop} (h : CausesAdded s t added)
    (same : ∀ c, added c ↔ added' c) : CausesAdded s t added' :=
  ⟨fun c => (h.set c).trans (or_congr Iff.rfl (same c)), h.port⟩

section

variable {r : JournalRecord} {s : State}

/-- The causes of an insertion into a Journal with room. -/
theorem journalInsert_causes_room (fresh : s.journal.holds r = false) (room : s.journal.isFull = false) :
    CausesAdded s (journalInsert r s) fun c => c = .lateRecord ∧ s.journal.isLate r = true where
  set c := by
    rw [journalInsert_raised]
    simp [fresh, room, Journal.places, and_comm]
  port := journalInsert_port r s

/-- The causes of an insertion into a full Journal that places the record. -/
theorem journalInsert_causes_full (fresh : s.journal.holds r = false) (full : s.journal.isFull = true)
    (places : s.journal.places r = true) :
    CausesAdded s (journalInsert r s) fun c => c = .journalLoss ∨ (c = .lateRecord ∧ s.journal.isLate r = true) where
  set c := by
    rw [journalInsert_raised]
    simp [fresh, full, places, and_comm]
  port := journalInsert_port r s

/-- The causes of an insertion that discards the record itself. -/
theorem journalInsert_causes_discarded (fresh : s.journal.holds r = false) (full : s.journal.isFull = true)
    (discarded : s.journal.places r = false) : CausesAdded s (journalInsert r s) fun c => c = .journalLoss where
  set c := by
    rw [journalInsert_raised]
    simp [fresh, full, discarded]
  port := journalInsert_port r s

theorem journalInsert_held (h : s.journal.holds r = true) : journalInsert r s = s := by
  simp [journalInsert, Journal.insert, h, raiseIf, State.setJournal]

end

/-! ## Room -/

section

variable {j k : Journal} {r : JournalRecord}

theorem Journal.insert_room (fresh : j.holds r = false) (room : j.isFull = false) : j.insert r = j.place r := by
  simp [Journal.insert, Journal.admitRecord, fresh, room]

theorem Journal.insert_full (fresh : j.holds r = false) (full : j.isFull = true) (discards : j.discardReleased = some k) :
    j.insert r = k.place r := by
  simp [Journal.insert, Journal.admitRecord, fresh, full, discards]

theorem Journal.insert_byKey (fresh : j.holds r = false) (full : j.isFull = true) (none_ : j.discardReleased = none) :
    j.insert r = j.discardByKey r := by
  simp [Journal.insert, Journal.admitRecord, fresh, full, none_]

/-- Placement beside a Journal with the same horizon and the same unreleased part. -/
theorem Journal.place_placedIn_beside (ordered : j.Ordered) {late : Prop} (isLate : j.isLate r = true ↔ late)
    (horizon : k.horizon = j.horizon) (unreleased : k.unreleased = j.unreleased) : k.PlacedIn r late (k.place r) :=
  Journal.place_placedIn (by rw [unreleased]; exact ordered.sorted) (by rw [← isLate, Journal.isLate, horizon, Journal.isLate])

end

theorem Journal.holds_iff (j : Journal) (r : JournalRecord) : j.holds r = true ↔ r.session ≠ none ∧
    ∃ x ∈ j.released ++ j.unreleased, x.origin = r.origin ∧ x.session = r.session ∧ x.sequence = r.sequence := by
  rw [Journal.holds, List.any_eq_true]
  simp only [JournalRecord.sameIdentity_iff, JournalRecord.identityShared]
  constructor
  · rintro ⟨x, hx, session, a, b, c⟩
    exact ⟨session, x, hx, a.symm, b.symm, c.symm⟩
  · rintro ⟨session, x, hx, a, b, c⟩
    exact ⟨x, hx, session, a.symm, b.symm, c.symm⟩

theorem Journal.discardReleased_none_iff (j : Journal) (pin : j.pinned = true → j.released ≠ []) :
    j.discardReleased = none ↔ if j.pinned then j.released.length = 1 else j.released = [] := by
  unfold Journal.discardReleased
  cases hp : j.pinned <;> rcases hr : j.released with _ | ⟨head, _ | ⟨oldest, rest⟩⟩ <;> simp
  exact pin hp hr

/-- A full Journal that holds no released record to discard holds at least two unreleased ones. -/
theorem Journal.unreleased_of_full {j : Journal} (full : j.held = 256)
    (none_ : if j.pinned then j.released.length = 1 else j.released = []) : 2 ≤ j.unreleased.length := by
  have released : j.released.length ≤ 1 := by
    split at none_
    · omega
    · simp [none_]
  unfold Journal.held at full
  omega

theorem Journal.place_unreleased_ne_nil {k : Journal} (r : JournalRecord) (holds : k.unreleased ≠ []) :
    (k.place r).unreleased ≠ [] := by
  unfold Journal.place
  split
  · exact holds
  · exact List.ne_nil_of_length_pos (by rw [placeByKey_length]; omega)

/-- Settles O53: the branches of `insert`, with the causes that `journalInsert` sets in each. -/
theorem journalInsertion : Obligations.JournalInsertion := by
  intro r s ordered j identityHeld late placedIn forcedOut
  have held := j.holds_iff r
  have isLate : j.isLate r = true ↔ late := by
    rw [Journal.isLate_iff]
    simp [late, CommonTime.notAfter]
  have lates {c : Cause} : c = .lateRecord ∧ j.isLate r = true ↔ c = .lateRecord ∧ late := and_congr Iff.rfl isLate
  have inserted : (journalInsert r s).journal = j.insert r := journalInsert_journal r s
  have fresh (h : ¬ identityHeld) : j.holds r = false := Bool.eq_false_of_not_eq_true (mt held.mp h)
  have isFull (h : j.held = 256) : j.isFull = true := by simp [Journal.isFull, h]
  have discarding (h : ¬ identityHeld) (full : j.held = 256) {k : Journal} (discards : j.discardReleased = some k) :
      placedIn k (journalInsert r s).journal ∧
        CausesAdded s (journalInsert r s) fun c => c = .journalLoss ∨ (c = .lateRecord ∧ late) := by
    obtain writes := Journal.discardReleased_writes discards
    rw [inserted, Journal.insert_full (fresh h) (isFull full) discards]
    exact ⟨Journal.place_placedIn_beside ordered isLate (by rw [writes]) (by rw [writes]),
      (journalInsert_causes_full (fresh h) (isFull full)
        (by simp [Journal.places, show s.journal.discardReleased = some k from discards, show s.journal.holds r = false from fresh h])).congr
        fun c => or_congr Iff.rfl lates⟩
  refine ⟨_, rfl, journalInsert_writes r s, by rw [inserted]; exact (Journal.insert_ordered r ordered).held,
    fun h => journalInsert_held (held.mpr h), fun h room => ?_, fun h full unpinned oldest rest parts => ?_,
    fun h full pinned head oldest rest parts => ?_, fun h full none_ => ?_⟩
  · have room : j.isFull = false := by simpa [Journal.isFull] using room
    rw [inserted, Journal.insert_room (fresh h) room]
    exact ⟨Journal.place_placedIn ordered.sorted isLate, (journalInsert_causes_room (fresh h) room).congr fun c => lates⟩
  · exact discarding h full (by simp only [Journal.discardReleased, unpinned, parts, countUp])
  · exact discarding h full (by simp only [Journal.discardReleased, pinned, parts, countUp])
  · have several := Journal.unreleased_of_full full none_
    have nonempty : j.unreleased ≠ [] := List.ne_nil_of_length_pos (by omega)
    have noDiscard : j.discardReleased = none := (j.discardReleased_none_iff ordered.pin).mpr none_
    have last : j.unreleased.getLast? = some (j.unreleased.getLast nonempty) := List.getLast?_eq_some_getLast nonempty
    have displaces : j.displaces r = r.keyEarlier (j.unreleased.getLast nonempty) := by
      simp only [Journal.displaces, last]
    have places : j.places r = r.keyEarlier (j.unreleased.getLast nonempty) := by
      simp [Journal.places, fresh h, isFull full, noDiscard, displaces]
    rw [inserted, Journal.insert_byKey (fresh h) (isFull full) noDiscard]
    refine ⟨_, last, fun latest => ⟨?_, journalInsert_causes_discarded (fresh h) (isFull full) (places.trans latest)⟩,
      fun earlier => ⟨?_, (journalInsert_causes_full (fresh h) (isFull full) (places.trans earlier)).congr
        fun c => or_congr Iff.rfl lates⟩⟩
    · rw [Journal.discardByKey, displaces, latest]
      exact Journal.forcedRelease_forcedOut (k := { j with overflow := countUp j.overflow 1 }) nonempty
    · rw [Journal.discardByKey, displaces, earlier]
      have rest : j.unreleased.dropLast ≠ [] := List.ne_nil_of_length_pos (by rw [List.length_dropLast]; omega)
      refine ⟨_, ?_, Journal.forcedRelease_forcedOut (Journal.place_unreleased_ne_nil r rest)⟩
      exact Journal.place_placedIn (ordered.sorted.sublist (List.dropLast_sublist _)) isLate

/-! ## The taking of a session -/

/-- Settles O54: `staysAt` says which records stay, and the rest is `Journal.takeSession_unique`. -/
theorem awaitingRecordsTakeSession : Obligations.AwaitingRecordsTakeSession := by
  intro j own x take held pinnedTakes stays
  have stay : j.staysAt own x = stays := by
    have heldBy (q : Sequence) : (j.sequencesUnder own x).contains q = held q := by
      rw [Bool.eq_iff_iff, List.contains_iff_mem, Journal.mem_sequencesUnder, decide_eq_true_iff]
      rfl
    have taking (q : Sequence) : (j.pinnedTaking == some q) = pinnedTakes q := by
      rw [Bool.eq_iff_iff, beq_iff_eq, Journal.pinnedTaking_iff, decide_eq_true_iff]
    funext r
    have mine : (r.origin == own && r.session == some x) = decide (r.origin = own ∧ r.session = some x) := by
      rw [Bool.eq_iff_iff, Bool.and_eq_true, beq_iff_eq, beq_iff_eq, decide_eq_true_iff]
    simp only [Journal.staysAt, heldBy, taking, mine, stays]
  refine ⟨fun unpinned => ?_, fun head rest pinned released => ?_, fun apart ownOnes numbered => ?_⟩
  · have released : j.pinned = true → j.released ≠ [] → False := fun p n => by
      rcases unpinned with h | h
      · simp [h] at p
      · exact n h
    unfold Journal.takeSession
    rw [stay]
    dsimp only
    split
    next head rest p e => exact (released p (by simp [e])).elim
    next => rfl
  · unfold Journal.takeSession
    rw [stay]
    simp only [pinned, released]
    rfl
  · exact Journal.takeSession_unique own x (apart.and numbered) ownOnes

end Sys2Proof.Machine
end

section
/-! SUPPORT. The reading of a frame: when the bytes after a SOF mark read as none, part by part (R10), and that the
bytes of a frame read as the frame (R167). -/

namespace Sys2Proof.Machine

/-! ## Codes read from bytes -/

theorem field_one (bytes : List Byte) (k : Nat) : field bytes k 1 = (bytes.getD k 0).toNat := by simp [field]

theorem frameKindOfCode_eq_startup (b : Byte) : frameKindOfCode b = some .startup ↔ b.toNat = 0x1E := by
  revert b
  decide

theorem frameKindOfCode_eq_none (b : Byte) : frameKindOfCode b = none ↔ b.toNat ≠ 0x1E ∧ b.toNat ≠ 0x2D := by
  revert b
  decide

theorem frameKindOfCode_code (k : FrameKind) : frameKindOfCode k.code = some k := by cases k <;> rfl

theorem recordKindOfCode_eq_none (n : Nat) : recordKindOfCode n = none ↔ n = 0 ∨ 6 < n := by
  by_cases low : n ≤ 6
  · interval_cases n <;> simp [recordKindOfCode]
  · have none_above : recordKindOfCode n = none := by
      unfold recordKindOfCode
      split
      case h_7 => rfl
      all_goals omega
    simp [none_above]
    omega

theorem recordKindOfCode_code (k : RecordKind) : recordKindOfCode k.code = some k := by cases k <;> rfl

theorem qualityOfCode_eq_noTime (n : Nat) : qualityOfCode n = .noTime ↔ n % 4 = 3 := by
  have small : n % 4 < 4 := Nat.mod_lt _ (by norm_num)
  unfold qualityOfCode
  interval_cases n % 4 <;> simp

/-- The two low bits of a code above which other bits stand are the quality's. -/
theorem qualityOfCode_add_code (m : Nat) (q : Quality) : qualityOfCode (m * 4 + q.code) = q := by
  have low : (m * 4 + q.code) % 4 = q.code := by have := q.code_lt; omega
  unfold qualityOfCode
  rw [low]
  cases q <;> rfl

/-! ## When bytes read as no frame -/

/-- The announcement at a position reads as none exactly where R10 rejects it. -/
theorem wireRecordAt_eq_none (rl : Nat) (bytes : List Byte) (k : Nat) :
    wireRecordAt rl bytes k = none ↔ badAnnouncementAt rl bytes k := by
  have kind := recordKindOfCode_eq_none (field bytes (k + 10) 1 / 16)
  have quality := qualityOfCode_eq_noTime (field bytes (k + 10) 1)
  unfold wireRecordAt badAnnouncementAt
  rw [field_one bytes (k + 9)]
  dsimp only
  split
  next noKind => exact iff_of_true rfl (or_assoc.mp (.inl (kind.mp noKind)))
  next noTime => exact iff_of_true rfl (.inr (.inr (.inl (quality.mp noTime))))
  next known timed =>
    obtain ⟨positive, atMost⟩ := not_or.mp (mt kind.mpr fun e => Option.some_ne_none _ (known.symm.trans e))
    rw [or_iff_right positive, or_iff_right atMost, or_iff_right (mt quality.mpr timed)]
    simp [or_iff_not_imp_left]

/-- The announcements read as none exactly where one of them does. -/
theorem wireRecordsAt_eq_none (rl : Nat) (bytes : List Byte) (n k : Nat) :
    wireRecordsAt rl bytes n k = none ↔ ∃ i < n, badAnnouncementAt rl bytes (k + 13 * i) := by
  induction n generalizing k with
  | zero => simp [wireRecordsAt]
  | succ n ih =>
    have parts : wireRecordsAt rl bytes (n + 1) k = none ↔
        wireRecordAt rl bytes k = none ∨ wireRecordsAt rl bytes n (k + 13) = none := by
      rw [wireRecordsAt]
      cases wireRecordAt rl bytes k <;> cases wireRecordsAt rl bytes n (k + 13) <;> simp
    rw [parts, wireRecordAt_eq_none, ih, Nat.exists_lt_succ_left]
    simp only [Nat.mul_zero, Nat.add_zero, Nat.mul_succ, Nat.add_assoc, Nat.add_comm 13]

/-- Settles O26: the grounds of R10 are the tests of `readFrame`, one by one. -/
theorem garbledExactlyOnItsGrounds : Obligations.GarbledExactlyOnItsGrounds := by
  intro rl bytes
  have kind := frameKindOfCode_eq_none (bytes.getD 0 0)
  have startup := frameKindOfCode_eq_startup (bytes.getD 0 0)
  have records := wireRecordsAt_eq_none rl bytes (field bytes 23 1) 72
  rw [← field_one] at kind startup
  unfold readFrame GarbledBytes
  dsimp only
  split
  next short => simp [short]
  next long =>
    split
    next noKind => exact iff_of_true rfl (.inr (.inl (kind.mp noKind)))
    next k isKind =>
      have named : ¬ (field bytes 0 1 ≠ 0x1E ∧ field bytes 0 1 ≠ 0x2D) :=
        mt kind.mpr fun e => Option.some_ne_none _ (isKind.symm.trans e)
      have starts : (k == FrameKind.startup) = decide (field bytes 0 1 = 0x1E) := by
        rw [Bool.eq_iff_iff, beq_iff_eq, decide_eq_true_iff, ← startup, isKind, Option.some.injEq]
      rw [starts, or_iff_right long, or_iff_right named]
      split
      next station =>
        rw [or_iff_right (Nat.not_lt.mpr (Nat.le_of_lt_succ station))]
        split
        next shape =>
          simp only [Bool.or_eq_true, Bool.and_eq_true, decide_eq_true_iff, bne_iff_ne] at shape
          exact iff_of_true rfl ((or_assoc.mp shape).imp_right fun e => e.imp_right .inl)
        next shape =>
          simp only [Bool.or_eq_true, Bool.and_eq_true, decide_eq_true_iff, bne_iff_ne, not_or] at shape
          obtain ⟨⟨few, empty⟩, length⟩ := shape
          rw [or_iff_right few, or_iff_right empty, or_iff_right length, ← records]
          split
          next crc => exact iff_of_true rfl (.inr crc)
          next crc =>
            rw [or_iff_left crc]
            split
            next unread => exact iff_of_true rfl unread
            next read => simp [read]
      next station => exact iff_of_true rfl (.inl (Nat.not_lt.mp station))

/-! ## Reading from a position on -/

theorem getD_drop (bytes : List Byte) (a k : Nat) : (bytes.drop a).getD k 0 = bytes.getD (a + k) 0 := by
  simp [List.getD_eq_getElem?_getD]

theorem field_drop (bytes : List Byte) (a k n : Nat) : field (bytes.drop a) k n = field bytes (a + k) n := by
  induction n generalizing k with
  | zero => rfl
  | succ n ih => rw [field, field, getD_drop, ih, Nat.add_assoc]

/-- A word of a width written into its bytes is read from them again. -/
theorem ofNat_field_bytesOf {n w : Nat} (width : w ≤ 8 * n) (x : BitVec w) (rest : List Byte) :
    BitVec.ofNat w (field (bytesOf n x.toNat ++ rest) 0 n) = x := by
  rw [field_bytesOf_of_lt (x.isLt.trans_le (Nat.pow_le_pow_right (by norm_num) width)), BitVec.ofNat_toNat,
    BitVec.setWidth_eq]

@[simp] theorem sequenceBytes_length (q : Option Sequence) : (sequenceBytes q).length = 2 := by
  cases q <;> simp [sequenceBytes]

@[simp] theorem watermarkBytes_length (w : Option CommonTime) : (watermarkBytes w).length = 7 := by
  cases w <;> simp [watermarkBytes]

@[simp] theorem receiptBytes_length (r : Option Receipt) : (receiptBytes r).length = 3 := by
  cases r <;> simp [receiptBytes]

@[simp] theorem WireRecord.bytes_length (w : WireRecord) : w.bytes.length = 13 := by simp [WireRecord.bytes]

/-- Parts of one length that stand in a row: the rest from the k-th on. -/
theorem drop_flatMap {α : Type} {g : α → List Byte} {c : Nat} (length : ∀ a, (g a).length = c) (l : List α)
    (k : Nat) : (l.flatMap g).drop (c * k) = (l.drop k).flatMap g := by
  induction l generalizing k with
  | nil => simp
  | cons a l ih =>
    cases k with
    | zero => simp
    | succ k => rw [Nat.mul_succ, Nat.add_comm, ← List.drop_drop, List.flatMap_cons, List.drop_left' (length a), ih,
        List.drop_succ_cons]

theorem flatMap_length {α : Type} {g : α → List Byte} {c : Nat} (length : ∀ a, (g a).length = c) (l : List α) :
    (l.flatMap g).length = c * l.length := by
  simp [List.length_flatMap, length, Nat.mul_comm]

/-! ## The parts of a frame read again -/

theorem sequenceAt_sequenceBytes {bytes : List Byte} {k : Nat} {q : Option Sequence} {rest : List Byte}
    (there : bytes.drop k = sequenceBytes q ++ rest) : sequenceAt bytes k = q := by
  rw [sequenceAt, ← Nat.add_zero k, ← field_drop, there]
  cases q with
  | none => simp [sequenceBytes, field]
  | some q =>
    rw [sequenceBytes, field_bytesOf_of_lt (q.isLt.trans (by norm_num))]
    simp [q.isLt]

theorem watermarkAt_watermarkBytes {bytes : List Byte} {w : Option CommonTime} {rest : List Byte}
    (inRange : ∀ t, w = some t → t.offset < 0xFFFF) (there : bytes.drop 16 = watermarkBytes w ++ rest) :
    watermarkAt bytes = w := by
  rw [watermarkAt, show 21 = 16 + 5 from rfl, ← field_drop, ← Nat.add_zero 16, ← field_drop, there]
  cases w with
  | none => simp [watermarkBytes, field]
  | some t =>
    have offset : field (watermarkBytes (some t) ++ rest) 5 2 = t.offset := by
      rw [watermarkBytes, List.append_assoc, field_append_of_le (by simp), bytesOf_length,
        field_bytesOf_of_lt ((inRange t rfl).trans (by norm_num))]
    rw [offset, if_neg (inRange t rfl).ne, watermarkBytes, List.append_assoc, ofNat_field_bytesOf (by norm_num)]

theorem receiptAt_receiptBytes {bytes : List Byte} {k : StationNo} {r : Option Receipt} {rest : List Byte}
    (there : bytes.drop (24 + 3 * k.val) = receiptBytes r ++ rest) : receiptAt bytes k = r := by
  have through : bytes.drop (24 + 3 * k.val + 1) = sequenceBytes (r.map (·.through)) ++ rest := by
    rw [← List.drop_drop, there]
    cases r <;> simp [receiptBytes, sequenceBytes]
  rw [receiptAt, sequenceAt_sequenceBytes through, ← Nat.add_zero (24 + 3 * k.val), ← getD_drop, there]
  cases r <;> rfl

/-- The kind and quality of a wire record stand in one byte. -/
theorem kindQuality_read (kind : RecordKind) (q : Quality) :
    let mixed : Byte := BitVec.ofNat 8 (kind.code * 16 + q.code)
    recordKindOfCode (mixed.toNat / 16) = some kind ∧ qualityOfCode mixed.toNat = q := by
  cases kind <;> cases q <;> decide

theorem wireRecordAt_bytes {rl : Nat} {w : WireRecord} (short : rl ≤ 64000) (sound : w.sound rl)
    {bytes rest : List Byte} {k : Nat} (there : bytes.drop k = w.bytes ++ rest) : wireRecordAt rl bytes k = some w := by
  obtain ⟨timed, source, offset⟩ := sound
  obtain ⟨kind, quality⟩ := kindQuality_read w.kind w.quality
  have parts : w.bytes ++ rest = bytesOf 2 w.sequence.toNat ++ (bytesOf 5 w.time.round.toNat ++
      (bytesOf 2 w.time.offset ++ (w.source :: BitVec.ofNat 8 (w.kind.code * 16 + w.quality.code) ::
        (bytesOf 2 w.value.toNat ++ rest)))) := by simp [WireRecord.bytes]
  rw [parts] at there
  have fields (i n : Nat) := (field_drop bytes k i n).symm.trans (congrArg (field · i n) there)
  have sequenceField : field bytes k 2 = _ := fields 0 2
  have roundField := fields 2 5
  have offsetField := fields 7 2
  have mixedField := fields 10 1
  have valueField := fields 11 2
  have sourceByte := (getD_drop bytes k 9).symm.trans (congrArg (·.getD 9 0) there)
  simp only [field_cons_succ, field_append_of_le, bytesOf_length, Nat.reduceLeDiff, Nat.reduceSub, field_cons_one,
    getD_bytesOf_append, List.getD_cons_zero] at roundField offsetField mixedField valueField sourceByte
  have offsetRead : field bytes (k + 7) 2 = w.time.offset := by
    rw [offsetField, field_bytesOf_of_lt (by omega)]
  have accepted : ¬ (decide (9 < w.source.toNat) || decide (rl ≤ w.time.offset)) = true := by
    simp
    omega
  rw [wireRecordAt]
  simp only [Nat.add_assoc, Nat.reduceAdd]
  simp only [mixedField, sourceByte, offsetRead, kind, quality]
  rw [if_neg accepted, sequenceField, roundField, valueField, ofNat_field_bytesOf (by norm_num),
    ofNat_field_bytesOf (by norm_num), ofNat_field_bytesOf (by norm_num)]

theorem wireRecordsAt_bytes {rl : Nat} {l : List WireRecord} (short : rl ≤ 64000) (sound : ∀ w ∈ l, w.sound rl)
    {bytes rest : List Byte} {k : Nat} (there : bytes.drop k = l.flatMap WireRecord.bytes ++ rest) :
    wireRecordsAt rl bytes l.length k = some l := by
  induction l generalizing k with
  | nil => rfl
  | cons w l ih =>
    rw [List.flatMap_cons, List.append_assoc] at there
    have later : bytes.drop (k + 13) = l.flatMap WireRecord.bytes ++ rest := by
      rw [← List.drop_drop, there, List.drop_left' w.bytes_length]
    rw [List.length_cons, wireRecordsAt, wireRecordAt_bytes short (sound w (.head _)) there,
      ih (fun v mem => sound v (.tail _ mem)) later]

/-! ## The frame read again -/

theorem frameFlags_read (departing leaving : Bool) (q : Quality) :
    let flags : Byte :=
      BitVec.ofNat 8 ((if departing then 128 else 0) + (if leaving then 64 else 0) + q.code)
    flags.getLsbD 7 = departing ∧ flags.getLsbD 6 = leaving ∧ qualityOfCode flags.toNat = q := by
  cases q <;> decide +revert

namespace Frame

/-- The parts of a frame in the order of R167. -/
theorem bytes_eq (f : Frame) : f.bytes = f.kind.code :: BitVec.ofNat 8 f.station.val ::
    (bytesOf 2 f.signature.toNat ++ (bytesOf 2 f.session.toNat ++ (bytesOf 5 f.round.toNat ++
      (BitVec.ofNat 8 f.flags :: (bytesOf 2 f.view.toNat ++ (sequenceBytes f.issuedThrough ++
        (watermarkBytes f.watermark ++ (BitVec.ofNat 8 f.announcements.length ::
          (f.receipts.toList.flatMap receiptBytes ++ (f.announcements.flatMap WireRecord.bytes ++
            bytesOf 2 (crc16 f.bodyBytes).toNat)))))))))) := by
  simp [Frame.bytes, bodyBytes, headerBytes]

theorem headerBytes_length (f : Frame) : f.headerBytes.length = 24 := by simp [headerBytes]

theorem receiptVector_length (f : Frame) : (f.receipts.toList.flatMap receiptBytes).length = 48 := by
  rw [flatMap_length receiptBytes_length, Vector.length_toList]

theorem bodyBytes_length (f : Frame) : f.bodyBytes.length = 72 + 13 * f.announcements.length := by
  rw [bodyBytes, List.length_append, List.length_append, headerBytes_length, receiptVector_length,
    flatMap_length WireRecord.bytes_length]

theorem drop_header (f : Frame) : f.bytes.drop 24 = f.receipts.toList.flatMap receiptBytes ++
    (f.announcements.flatMap WireRecord.bytes ++ bytesOf 2 (crc16 f.bodyBytes).toNat) := by
  rw [Frame.bytes, bodyBytes, List.append_assoc, List.append_assoc, List.drop_left' f.headerBytes_length]

theorem drop_receipts (f : Frame) : f.bytes.drop 72 =
    f.announcements.flatMap WireRecord.bytes ++ bytesOf 2 (crc16 f.bodyBytes).toNat := by
  rw [show 72 = 24 + 48 from rfl, ← List.drop_drop, drop_header, List.drop_left' f.receiptVector_length]

theorem receiptAt_bytes (f : Frame) (k : StationNo) : receiptAt f.bytes k = f.receipts[k] := by
  have start : f.receipts.toList.drop k.val = f.receipts[k] :: f.receipts.toList.drop (k.val + 1) := by
    rw [List.drop_eq_getElem_cons (by simp)]
    rfl
  have position : 3 * k.val ≤ (f.receipts.toList.flatMap receiptBytes).length := by
    have := k.isLt
    rw [receiptVector_length]
    omega
  refine receiptAt_receiptBytes (rest := (f.receipts.toList.drop (k.val + 1)).flatMap receiptBytes ++
    (f.announcements.flatMap WireRecord.bytes ++ bytesOf 2 (crc16 f.bodyBytes).toNat)) ?_
  rw [← List.drop_drop, drop_header, List.drop_append_of_le_length position, drop_flatMap receiptBytes_length, start,
    List.flatMap_cons, List.append_assoc]

theorem take_body (f : Frame) : f.bytes.take (72 + 13 * f.announcements.length) = f.bodyBytes :=
  List.take_left' f.bodyBytes_length

theorem field_crc (f : Frame) :
    field f.bytes (72 + 13 * f.announcements.length) 2 = (crc16 f.bodyBytes).toNat := by
  rw [Frame.bytes, field_append_of_le f.bodyBytes_length.le, f.bodyBytes_length, Nat.sub_self, field_bytesOf_end]
  exact Nat.mod_eq_of_lt (BitVec.isLt _)

/-- The bytes of a frame before its issued-through. -/
def frontBytes (f : Frame) : List Byte :=
  [f.kind.code, BitVec.ofNat 8 f.station.val] ++ bytesOf 2 f.signature.toNat ++ bytesOf 2 f.session.toNat ++
    bytesOf 5 f.round.toNat ++ [BitVec.ofNat 8 f.flags] ++ bytesOf 2 f.view.toNat

/-- The bytes of a frame after its watermark. -/
def restBytes (f : Frame) : List Byte :=
  BitVec.ofNat 8 f.announcements.length :: (f.receipts.toList.flatMap receiptBytes ++
    (f.announcements.flatMap WireRecord.bytes ++ bytesOf 2 (crc16 f.bodyBytes).toNat))

theorem frontBytes_length (f : Frame) : f.frontBytes.length = 14 := by simp [frontBytes]

theorem bytes_parts (f : Frame) : f.bytes =
    f.frontBytes ++ (sequenceBytes f.issuedThrough ++ (watermarkBytes f.watermark ++ f.restBytes)) := by
  simp [Frame.bytes, bodyBytes, headerBytes, frontBytes, restBytes]

theorem drop_front (f : Frame) : f.bytes.drop 14 =
    sequenceBytes f.issuedThrough ++ (watermarkBytes f.watermark ++ f.restBytes) := by
  rw [bytes_parts, List.drop_left' f.frontBytes_length]

theorem drop_issued (f : Frame) : f.bytes.drop 16 = watermarkBytes f.watermark ++ f.restBytes := by
  rw [show 16 = 14 + 2 from rfl, ← List.drop_drop, drop_front, List.drop_left' (sequenceBytes_length _)]

/-- The fields of the header that are words are read from it again. -/
theorem words_read (f : Frame) : BitVec.ofNat 16 (field f.bytes 2 2) = f.signature ∧
    BitVec.ofNat 16 (field f.bytes 4 2) = f.session ∧ BitVec.ofNat 40 (field f.bytes 6 5) = f.round ∧
      BitVec.ofNat 16 (field f.bytes 12 2) = f.view := by
  rw [f.bytes_eq]
  simp only [field_cons_succ, field_append_of_le, bytesOf_length, Nat.reduceLeDiff, Nat.reduceSub]
  exact ⟨ofNat_field_bytesOf (by norm_num) _ _, ofNat_field_bytesOf (by norm_num) _ _,
    ofNat_field_bytesOf (by norm_num) _ _, ofNat_field_bytesOf (by norm_num) _ _⟩

theorem kind_read (f : Frame) : frameKindOfCode (f.bytes.getD 0 0) = some f.kind := by
  rw [f.bytes_eq]
  exact frameKindOfCode_code f.kind

theorem station_read (f : Frame) : field f.bytes 1 1 = f.station.val := by
  have := f.station.isLt
  rw [f.bytes_eq, field_cons_succ, field_cons_one, BitVec.toNat_ofNat]
  omega

theorem flags_read (f : Frame) : (f.bytes.getD 11 0).getLsbD 7 = f.departing ∧
    (f.bytes.getD 11 0).getLsbD 6 = f.leavePending ∧ qualityOfCode (field f.bytes 11 1) = f.quality := by
  have flagsByte : f.bytes.getD 11 0 = BitVec.ofNat 8 f.flags := by
    rw [f.bytes_eq]
    simp only [List.getD_cons_succ, getD_bytesOf_append, List.getD_cons_zero, Nat.reduceLeDiff, Nat.reduceSub]
  rw [field_one, flagsByte]
  exact frameFlags_read f.departing f.leavePending f.quality

theorem count_read {f : Frame} (few : f.announcements.length ≤ 4) : field f.bytes 23 1 = f.announcements.length := by
  rw [f.bytes_eq]
  simp [field_append_of_le]
  omega

theorem receipts_read (f : Frame) : Vector.ofFn (receiptAt f.bytes) = f.receipts := by
  ext k lt : 1
  rw [Vector.getElem_ofFn, receiptAt_bytes f ⟨k, lt⟩]
  rfl

theorem bytes_length (f : Frame) : f.bytes.length = 74 + 13 * f.announcements.length := by
  rw [Frame.bytes, List.length_append, bodyBytes_length, bytesOf_length]
  omega

end Frame

/-- Settles O60: every test of `readFrame` passes, and every part is read back from its place. -/
theorem frameReadsAsSent : Obligations.FrameReadsAsSent := by
  intro rl f short sound
  obtain ⟨signature, session, round, view⟩ := f.words_read
  obtain ⟨departing, leaving, quality⟩ := f.flags_read
  have long : ¬ f.bytes.length < 24 := by rw [f.bytes_length]; omega
  have shape : ¬ (decide (4 < f.announcements.length) || (f.kind == .startup && f.announcements.length != 0) ||
      f.bytes.length != 74 + 13 * f.announcements.length) = true := by
    simpa [f.bytes_length] using And.intro sound.count sound.startup
  have numbered : field f.bytes 1 1 < 16 := f.station_read ▸ f.station.isLt
  have station : (⟨field f.bytes 1 1, numbered⟩ : StationNo) = f.station := Fin.ext f.station_read
  rw [readFrame]
  simp only [f.count_read sound.count]
  rw [if_neg long, f.kind_read]
  dsimp only
  rw [dif_pos numbered, if_neg shape, f.take_body, f.field_crc, if_neg (not_not_intro rfl),
    wireRecordsAt_bytes short sound.announcements f.drop_receipts]
  dsimp only
  rw [station, signature, session, round, view, departing, leaving, quality, sequenceAt_sequenceBytes f.drop_front,
    watermarkAt_watermarkBytes sound.watermark f.drop_issued, f.receipts_read]

end Sys2Proof.Machine
end
